-- ==== Sys2Proof/Word.lean ====
section
/-! DEFINITION. The bit-vector types of the machine (10_state.md R20, R23, R24, R26, R27; 30_encoding.md R70, R71).
Everything else the machine holds is an inductive type, a structure, a Boolean, a list or a vector. -/

namespace Sys2Proof

/-- An 8-bit value: a `V` register, a memory cell, a timer, the immediate `nn`. -/
abbrev Byte := BitVec 8

/-- A 16-bit value: an instruction word, `pc`, `I`, `sp`, a stack entry. -/
abbrev Word := BitVec 16

/-- A 4-bit field of an instruction word: a register index `x` or `y`, the count `n`, an ignored nibble. -/
abbrev Nibble := BitVec 4

/-- The 12-bit address field `nnn`. -/
abbrev Addr := BitVec 12

end Sys2Proof
end

