-- ==== Sys2Proof/Config.lean ====
section
/-! DEFINITION. The free value of the machine: the byte a random draw gives (00_scope.md R9, R14; 42_alu.md R132). -/

namespace Sys2Proof

/-- `rand8()`: the byte of the k-th draw, "a draw: any byte, under no law" (R9). It has no body, so no proof can see
a value of it; a statement about RND holds for every sequence of draws. Log entry 1. -/
opaque Config.rand8 : Nat → Byte

end Sys2Proof
end

