-- ==== Sys2Proof/Syntax.lean ====
section
/-! DEFINITION. The instructions: one constructor per row of the opcode map (30_encoding.md R81), in its order.
A constructor carries every bit of the word that its row does not fix, the bits the classification ignores
included (R77: the `ign` fields), so that the word of an instruction can be written again exactly: a fatal
condition records that word (60_exceptions.md R204). -/

namespace Sys2Proof

/-- One constructor per slot of the dispatch table (30_encoding.md R74, R81); `UNKNOWN` is a decode error, not an
instruction. -/
inductive Instr where
  | sys (nnn : Addr)                     -- row 1, R101
  | cls (ign : Nibble)                   -- row 2, R141
  | ret (ign : Nibble)                   -- row 3, R102
  | jp (nnn : Addr)                      -- row 4, R103
  | call (nnn : Addr)                    -- row 5, R104
  | seImm (x : Nibble) (nn : Byte)       -- row 6, R111
  | sneImm (x : Nibble) (nn : Byte)      -- row 7, R112
  | seReg (x y ign : Nibble)             -- row 8, R113
  | ldImm (x : Nibble) (nn : Byte)       -- row 9, R121
  | addImm (x : Nibble) (nn : Byte)      -- row 10, R122
  | ldReg (x y : Nibble)                 -- row 11, R131
  | orReg (x y : Nibble)                 -- row 12, R123
  | andReg (x y : Nibble)                -- row 13, R124
  | xorReg (x y : Nibble)                -- row 14, R125
  | addReg (x y : Nibble)                -- row 15, R126
  | sub (x y : Nibble)                   -- row 16, R127
  | shr (x y : Nibble)                   -- row 17, R128
  | subn (x y : Nibble)                  -- row 18, R129
  | shl (x y : Nibble)                   -- row 19, R130
  | sneReg (x y ign : Nibble)            -- row 20, R114
  | ldI (nnn : Addr)                     -- row 21, R161
  | jpV0 (nnn : Addr)                    -- row 22, R105
  | rnd (x : Nibble) (nn : Byte)         -- row 23, R132
  | drw (x y n : Nibble)                 -- row 24, R142
  | skp (x : Nibble)                     -- row 25, R151
  | sknp (x : Nibble)                    -- row 26, R152
  | ldVxDt (x : Nibble)                  -- row 27, R154
  | ldVxK (x : Nibble)                   -- row 28, R153
  | ldDtVx (x : Nibble)                  -- row 29, R155
  | ldStVx (x : Nibble)                  -- row 30, R156
  | addI (x : Nibble)                    -- row 31, R162
  | ldF (x : Nibble)                     -- row 32, R163
  | ldB (x : Nibble)                     -- row 33, R164
  | storeRegs (x : Nibble)               -- row 34, R166
  | loadRegs (x : Nibble)                -- row 35, R167
  deriving DecidableEq, Repr

end Sys2Proof
end

