-- ==== Sys2Proof/WellFormed.lean ====
section
/-! DEFINITION. Which terms of `Instr` stand for an instruction word. Every field has exactly the width of its bit
range, so the one term that stands for no word of its own row is a SYS whose low byte is that of CLS or RET
(30_encoding.md R76, R77: those rows take priority over SYS). -/

namespace Sys2Proof

/-- The term is the reading of some instruction word. -/
def Instr.wellFormed : Instr → Bool
  | .sys nnn => nnn.extractLsb' 0 8 != 0xE0#8 && nnn.extractLsb' 0 8 != 0xEE#8
  | .cls _ | .ret _ | .jp _ | .call _ | .seImm _ _ | .sneImm _ _ | .seReg _ _ _ | .ldImm _ _ | .addImm _ _
  | .ldReg _ _ | .orReg _ _ | .andReg _ _ | .xorReg _ _ | .addReg _ _ | .sub _ _ | .shr _ _ | .subn _ _
  | .shl _ _ | .sneReg _ _ _ | .ldI _ | .jpV0 _ | .rnd _ _ | .drw _ _ _ | .skp _ | .sknp _ | .ldVxDt _
  | .ldVxK _ | .ldDtVx _ | .ldStVx _ | .addI _ | .ldF _ | .ldB _ | .storeRegs _ | .loadRegs _ => true

/-- `Instr.wellFormed` as a proposition. -/
abbrev Instr.WellFormed (i : Instr) : Prop := i.wellFormed = true

end Sys2Proof
end

