-- ==== Sys2Proof/Decode.lean ====
section
/-! DEFINITION. The field extractor and the two-level dispatch table (30_encoding.md R71 to R77), the decoder over
bytes (20_memory.md R53: the byte at the lower address is the high byte), and after them the encoder, written from
the same formats (R80) and map (R81). -/

namespace Sys2Proof

/-- Why the decoder refuses bytes. -/
inductive DecodeError where
  /-- Fewer than the two bytes of an instruction word (R70). -/
  | truncated
  /-- The word classifies to the `UNKNOWN` slot (R82). -/
  | unknownOpcode (w : Word)
  deriving DecidableEq, Repr

/-! ## The fields of a word (R71) -/

/-- `op = w[15:12]`, the command group. -/
def opOf (w : Word) : Nibble := w.extractLsb' 12 4

/-- `x = w[11:8]`. -/
def xOf (w : Word) : Nibble := w.extractLsb' 8 4

/-- `y = w[7:4]`. -/
def yOf (w : Word) : Nibble := w.extractLsb' 4 4

/-- `n = w[3:0]`. -/
def nOf (w : Word) : Nibble := w.extractLsb' 0 4

/-- `nn = w[7:0]`. -/
def nnOf (w : Word) : Byte := w.extractLsb' 0 8

/-- `nnn = w[11:0]`. -/
def nnnOf (w : Word) : Addr := w.extractLsb' 0 12

/-! ## The second level (R76) -/

/-- Subgroup 0, keyed on the low byte: every word has a slot. -/
def classify0 (w : Word) : Instr :=
  match (nnOf w).toNat with
  | 0xE0 => .cls (xOf w)
  | 0xEE => .ret (xOf w)
  | _ => .sys (nnnOf w)

/-- Subgroup 8, keyed on the low nibble. -/
def classify8 (w : Word) : Except DecodeError Instr :=
  match (nOf w).toNat with
  | 0x0 => .ok (.ldReg (xOf w) (yOf w))
  | 0x1 => .ok (.orReg (xOf w) (yOf w))
  | 0x2 => .ok (.andReg (xOf w) (yOf w))
  | 0x3 => .ok (.xorReg (xOf w) (yOf w))
  | 0x4 => .ok (.addReg (xOf w) (yOf w))
  | 0x5 => .ok (.sub (xOf w) (yOf w))
  | 0x6 => .ok (.shr (xOf w) (yOf w))
  | 0x7 => .ok (.subn (xOf w) (yOf w))
  | 0xE => .ok (.shl (xOf w) (yOf w))
  | _ => .error (.unknownOpcode w)

/-- Subgroup E, keyed on the low byte. -/
def classifyE (w : Word) : Except DecodeError Instr :=
  match (nnOf w).toNat with
  | 0x9E => .ok (.skp (xOf w))
  | 0xA1 => .ok (.sknp (xOf w))
  | _ => .error (.unknownOpcode w)

/-- Subgroup F, keyed on the low byte. -/
def classifyF (w : Word) : Except DecodeError Instr :=
  match (nnOf w).toNat with
  | 0x07 => .ok (.ldVxDt (xOf w))
  | 0x0A => .ok (.ldVxK (xOf w))
  | 0x15 => .ok (.ldDtVx (xOf w))
  | 0x18 => .ok (.ldStVx (xOf w))
  | 0x1E => .ok (.addI (xOf w))
  | 0x29 => .ok (.ldF (xOf w))
  | 0x33 => .ok (.ldB (xOf w))
  | 0x55 => .ok (.storeRegs (xOf w))
  | 0x65 => .ok (.loadRegs (xOf w))
  | _ => .error (.unknownOpcode w)

/-- The first level, by the command group (R75). The last arm is group F: a nibble has no value above 0xF. -/
def decodeWord (w : Word) : Except DecodeError Instr :=
  match (opOf w).toNat with
  | 0x0 => .ok (classify0 w)
  | 0x1 => .ok (.jp (nnnOf w))
  | 0x2 => .ok (.call (nnnOf w))
  | 0x3 => .ok (.seImm (xOf w) (nnOf w))
  | 0x4 => .ok (.sneImm (xOf w) (nnOf w))
  | 0x5 => .ok (.seReg (xOf w) (yOf w) (nOf w))
  | 0x6 => .ok (.ldImm (xOf w) (nnOf w))
  | 0x7 => .ok (.addImm (xOf w) (nnOf w))
  | 0x8 => classify8 w
  | 0x9 => .ok (.sneReg (xOf w) (yOf w) (nOf w))
  | 0xA => .ok (.ldI (nnnOf w))
  | 0xB => .ok (.jpV0 (nnnOf w))
  | 0xC => .ok (.rnd (xOf w) (nnOf w))
  | 0xD => .ok (.drw (xOf w) (yOf w) (nOf w))
  | 0xE => classifyE w
  | _ => classifyF w

/-- The word whose bytes stand at rising addresses as `hi`, `lo` (R53). -/
def wordOfBytes (hi lo : Byte) : Word := hi ++ lo

/-- The two bytes of a word in the order memory holds them (R53). -/
def bytesOfWord (w : Word) : List Byte := [w.extractLsb' 8 8, w.extractLsb' 0 8]

/-- Decode the first instruction of a byte sequence and give the rest of the sequence back. -/
def decode : List Byte → Except DecodeError (Instr × List Byte)
  | hi :: lo :: rest =>
    match decodeWord (wordOfBytes hi lo) with
    | .ok i => .ok (i, rest)
    | .error e => .error e
  | [_] => .error .truncated
  | [] => .error .truncated

/-! ## The encoder (R80, R81) -/

/-- The word of an instruction, an ignored nibble written as the constructor carries it. -/
def encodeWord : Instr → Word
  | .sys nnn => 0x0#4 ++ nnn
  | .cls ign => 0x0#4 ++ ign ++ 0xE0#8
  | .ret ign => 0x0#4 ++ ign ++ 0xEE#8
  | .jp nnn => 0x1#4 ++ nnn
  | .call nnn => 0x2#4 ++ nnn
  | .seImm x nn => 0x3#4 ++ x ++ nn
  | .sneImm x nn => 0x4#4 ++ x ++ nn
  | .seReg x y ign => 0x5#4 ++ x ++ y ++ ign
  | .ldImm x nn => 0x6#4 ++ x ++ nn
  | .addImm x nn => 0x7#4 ++ x ++ nn
  | .ldReg x y => 0x8#4 ++ x ++ y ++ 0x0#4
  | .orReg x y => 0x8#4 ++ x ++ y ++ 0x1#4
  | .andReg x y => 0x8#4 ++ x ++ y ++ 0x2#4
  | .xorReg x y => 0x8#4 ++ x ++ y ++ 0x3#4
  | .addReg x y => 0x8#4 ++ x ++ y ++ 0x4#4
  | .sub x y => 0x8#4 ++ x ++ y ++ 0x5#4
  | .shr x y => 0x8#4 ++ x ++ y ++ 0x6#4
  | .subn x y => 0x8#4 ++ x ++ y ++ 0x7#4
  | .shl x y => 0x8#4 ++ x ++ y ++ 0xE#4
  | .sneReg x y ign => 0x9#4 ++ x ++ y ++ ign
  | .ldI nnn => 0xA#4 ++ nnn
  | .jpV0 nnn => 0xB#4 ++ nnn
  | .rnd x nn => 0xC#4 ++ x ++ nn
  | .drw x y n => 0xD#4 ++ x ++ y ++ n
  | .skp x => 0xE#4 ++ x ++ 0x9E#8
  | .sknp x => 0xE#4 ++ x ++ 0xA1#8
  | .ldVxDt x => 0xF#4 ++ x ++ 0x07#8
  | .ldVxK x => 0xF#4 ++ x ++ 0x0A#8
  | .ldDtVx x => 0xF#4 ++ x ++ 0x15#8
  | .ldStVx x => 0xF#4 ++ x ++ 0x18#8
  | .addI x => 0xF#4 ++ x ++ 0x1E#8
  | .ldF x => 0xF#4 ++ x ++ 0x29#8
  | .ldB x => 0xF#4 ++ x ++ 0x33#8
  | .storeRegs x => 0xF#4 ++ x ++ 0x55#8
  | .loadRegs x => 0xF#4 ++ x ++ 0x65#8

/-- The bytes of an instruction as memory holds them. -/
def encode (i : Instr) : List Byte := bytesOfWord (encodeWord i)

/-- The word of the opcode table's numbering: the low `nbits` bits of `w`, every bit above them 0. The table's bit 0
is the word's bit 0 (R12). -/
def tableWord (nbits w : Nat) : Word := BitVec.ofNat 16 (w % 2 ^ nbits)

/-- What the decoder reads from the bytes of an opcode table word, laid out as memory holds them. -/
def decodeTableWord (nbits w : Nat) : Option Instr :=
  match decode (bytesOfWord (tableWord nbits w)) with
  | .ok (i, _) => some i
  | .error _ => none

/-! ## The opcode map as a table of masks (R81) -/

/-- One row of the map: its number, its mask and its match value. -/
structure MapRow where
  slot : Nat
  mask : Word
  pattern : Word
  deriving DecidableEq, Repr

/-- The rows of R81 in their order. -/
def opcodeMap : List MapRow :=
  [⟨1, 0xF000, 0x0000⟩, ⟨2, 0xF0FF, 0x00E0⟩, ⟨3, 0xF0FF, 0x00EE⟩, ⟨4, 0xF000, 0x1000⟩,
    ⟨5, 0xF000, 0x2000⟩, ⟨6, 0xF000, 0x3000⟩, ⟨7, 0xF000, 0x4000⟩] ++
  [⟨8, 0xF000, 0x5000⟩, ⟨9, 0xF000, 0x6000⟩, ⟨10, 0xF000, 0x7000⟩, ⟨11, 0xF00F, 0x8000⟩,
    ⟨12, 0xF00F, 0x8001⟩, ⟨13, 0xF00F, 0x8002⟩, ⟨14, 0xF00F, 0x8003⟩] ++
  [⟨15, 0xF00F, 0x8004⟩, ⟨16, 0xF00F, 0x8005⟩, ⟨17, 0xF00F, 0x8006⟩, ⟨18, 0xF00F, 0x8007⟩,
    ⟨19, 0xF00F, 0x800E⟩, ⟨20, 0xF000, 0x9000⟩, ⟨21, 0xF000, 0xA000⟩] ++
  [⟨22, 0xF000, 0xB000⟩, ⟨23, 0xF000, 0xC000⟩, ⟨24, 0xF000, 0xD000⟩, ⟨25, 0xF0FF, 0xE09E⟩,
    ⟨26, 0xF0FF, 0xE0A1⟩, ⟨27, 0xF0FF, 0xF007⟩, ⟨28, 0xF0FF, 0xF00A⟩] ++
  [⟨29, 0xF0FF, 0xF015⟩, ⟨30, 0xF0FF, 0xF018⟩, ⟨31, 0xF0FF, 0xF01E⟩, ⟨32, 0xF0FF, 0xF029⟩,
    ⟨33, 0xF0FF, 0xF033⟩, ⟨34, 0xF0FF, 0xF055⟩, ⟨35, 0xF0FF, 0xF065⟩]

/-- A word has the bits a row fixes. -/
def MapRow.matchesWord (r : MapRow) (w : Word) : Bool := w &&& r.mask == r.pattern

/-- How many bits a mask fixes. -/
def maskBits (m : Word) : Nat := ((List.range 16).filter m.getLsbD).length

/-- Of two rows a word matches, the one with more mask bits (R77). -/
def preferRow (best : Option MapRow) (r : MapRow) : Option MapRow :=
  match best with
  | none => some r
  | some b => if maskBits b.mask < maskBits r.mask then some r else some b

/-- The slot number the map gives a word: of the rows it matches, the one with the most mask bits (R77), or none. -/
def slotByMap (w : Word) : Option Nat :=
  (((opcodeMap.filter (·.matchesWord w)).foldl preferRow none)).map (·.slot)

/-- The row number of an instruction in the map. -/
def Instr.slot : Instr → Nat
  | .sys _ => 1
  | .cls _ => 2
  | .ret _ => 3
  | .jp _ => 4
  | .call _ => 5
  | .seImm _ _ => 6
  | .sneImm _ _ => 7
  | .seReg _ _ _ => 8
  | .ldImm _ _ => 9
  | .addImm _ _ => 10
  | .ldReg _ _ => 11
  | .orReg _ _ => 12
  | .andReg _ _ => 13
  | .xorReg _ _ => 14
  | .addReg _ _ => 15
  | .sub _ _ => 16
  | .shr _ _ => 17
  | .subn _ _ => 18
  | .shl _ _ => 19
  | .sneReg _ _ _ => 20
  | .ldI _ => 21
  | .jpV0 _ => 22
  | .rnd _ _ => 23
  | .drw _ _ _ => 24
  | .skp _ => 25
  | .sknp _ => 26
  | .ldVxDt _ => 27
  | .ldVxK _ => 28
  | .ldDtVx _ => 29
  | .ldStVx _ => 30
  | .addI _ => 31
  | .ldF _ => 32
  | .ldB _ => 33
  | .storeRegs _ => 34
  | .loadRegs _ => 35

/-- The row of an instruction in the map. -/
def Instr.row (i : Instr) : MapRow := opcodeMap.getD (i.slot - 1) ⟨0, 0, 0⟩

end Sys2Proof
end

