-- ==== Sys2Proof/Machine/Defaults.lean ====
section
/-! DEFINITION. The constants the machine starts from: the sizes (00_scope.md R8), the font (10_state.md R31, R32), the
byte an unlisted memory cell holds (R29), and the defaults of the parameters (00_scope.md R9), which Params.lean takes. -/

namespace Sys2Proof.Machine

/-- `MEM_SIZE` (R8): the addresses are 0x000 to 0xFFF. -/
def memSize : Nat := 0x1000

/-- `FONT_BASE` (R8). -/
def fontBase : Nat := 0x050

/-- `PROGRAM_START` (R8), the reset value of `pc` (R23). -/
def programStart : Nat := 0x200

/-- The default of the parameter `PROGRAM_END` (R9). Log entry 7. -/
def defaultProgramEnd : Nat := 0x1000

/-- The default of the parameter `FONT[0..79]`: the table of R32, five bytes a glyph, glyph 0 first. Log entry 6. -/
def defaultFont : List Byte :=
  [0xF0, 0x90, 0x90, 0x90, 0xF0] ++ [0x20, 0x60, 0x20, 0x20, 0x70] ++
  [0xF0, 0x10, 0xF0, 0x80, 0xF0] ++ [0xF0, 0x10, 0xF0, 0x10, 0xF0] ++
  [0x90, 0x90, 0xF0, 0x10, 0x10] ++ [0xF0, 0x80, 0xF0, 0x10, 0xF0] ++
  [0xF0, 0x80, 0xF0, 0x90, 0xF0] ++ [0xF0, 0x10, 0x20, 0x40, 0x40] ++
  [0xF0, 0x90, 0xF0, 0x90, 0xF0] ++ [0xF0, 0x90, 0xF0, 0x10, 0xF0] ++
  [0xF0, 0x90, 0xF0, 0x90, 0x90] ++ [0xE0, 0x90, 0xE0, 0x90, 0xE0] ++
  [0xF0, 0x80, 0x80, 0x80, 0xF0] ++ [0xE0, 0x90, 0x90, 0x90, 0xE0] ++
  [0xF0, 0x80, 0xF0, 0x80, 0xF0] ++ [0xF0, 0x80, 0xF0, 0x80, 0x80]

/-- What a memory address that the memory does not list reads as: its reset contents under the default font (R29), that
font in 0x050 to 0x09F and 0 everywhere else (decision D12 of the spec). The memory a reset with another font leaves
lists the bytes in which the two fonts differ (`fontMemory`). Log entry 4. -/
def unlistedByte (a : Nat) : Byte :=
  if fontBase ≤ a ∧ a < fontBase + defaultFont.length then defaultFont.getD (a - fontBase) 0 else 0

/-- The value the four quirk flags have in `State.reset`: the spec leaves them open (D14). Log entry 5. -/
def resetQuirk : Bool := false

/-- The value of `cfg.cycles_per_tick` in `State.reset`: the spec leaves it open (D14). Log entry 5. -/
def resetCyclesPerTick : Nat := 10

end Sys2Proof.Machine
end

