-- ==== Sys2Proof/Machine/State.lean ====
section
/-! DEFINITION. The state of the machine as plain data (10_state.md R40), the reasons it can stop, and the state after
reset (R42). The fields `tickLeft` and `draws` are the model's own (log entries 1 and 2); every other field is the
spec's. -/

namespace Sys2Proof.Machine

/-- Memory: the cells that differ from their reset contents, addresses strictly rising (`Memory.wf` in Ops.lean). -/
abbrev Memory := List Host.Cell

/-- The display grid (R33): `fb[r][c]`, row 0 at the top, column 0 at the left; true is a lit cell. -/
abbrev Display := Vector (Vector Bool 64) 32

/-- The cause of a fatal condition (60_exceptions.md R200), in the order of the spec's codes 1 to 5. -/
inductive FatalCause where
  | unknownOpcode
  | stackOverflow
  | stackUnderflow
  | memOutOfRange
  | keyIndexOutOfRange
  deriving DecidableEq, Repr

/-- The fault record `(cause, info, pc, w)` (R38, R204); `word` is absent for a fetch fault. -/
structure FatalRecord where
  cause : FatalCause
  info : Nat
  pc : Word
  word : Option Word
  deriving DecidableEq, Repr

/-- The configuration (R37): four quirk flags and the cycle budget of a tick. No instruction writes it. -/
structure Cfg where
  vfReset : Bool
  memory : Bool
  shifting : Bool
  jumping : Bool
  cyclesPerTick : Nat
  deriving DecidableEq, Repr

/-- The state block (R40). -/
structure State where
  /-- `V[0]` to `V[15]` (R20); `V[15]` is the flag register (R22). -/
  v : Vector Byte 16
  /-- The address register `I` (R24). -/
  i : Word
  /-- The program counter (R23). -/
  pc : Word
  /-- The stack pointer (R27): the number of return addresses on the stack. -/
  sp : Word
  /-- `stack[0]` to `stack[15]` (R26). -/
  stack : Vector Word 16
  /-- `mem[0]` to `mem[4095]` (R29). -/
  mem : Memory
  /-- The delay timer (R30). -/
  dt : Byte
  /-- The sound timer (R30). -/
  st : Byte
  /-- The display grid (R33). -/
  fb : Display
  /-- The sixteen key flags (R35), written by the host. -/
  keys : Vector Bool 16
  /-- The await flag (R36). -/
  await : Bool
  /-- The configuration (R37). -/
  cfg : Cfg
  /-- A fatal condition has stopped the machine (R38). -/
  halted : Bool
  /-- The record of that condition (R38). -/
  fault : Option FatalRecord
  /-- The model's own: cycles of the tick in progress that are still to run, 0 between ticks (the loop variable of
  R212). Log entry 2. -/
  tickLeft : Nat
  /-- The model's own: how many random draws have been made, the argument of `Config.rand8`. Log entry 1. -/
  draws : Nat
  deriving DecidableEq, Repr

/-- Why a step stops outside the machine. Every fatal condition the spec describes is a next state (R204), not one of
these. -/
inductive Fault where
  /-- Raised by RET alone, when `sp` is above 16: the pop would read a stack entry that does not exist (R26, R28). The
  spec gives that read no meaning and no reachable state has such an `sp` (R27). Safe: the machine stops. -/
  | stackIndexOutOfArray
  deriving DecidableEq, Repr

/-- Why the model gives a move no meaning. -/
inductive Refusal where
  /-- An instruction whose meaning is not written. No arm of `exec` answers it. Safe. -/
  | notModelled (mnemonic : String)
  /-- Raised by `hostAct` alone, when the host moves while a tick is in progress: the protocol forbids it and the model
  has no such move (70_reset_and_hazards.md R240; U18 of 93_implementation_defined.md). Safe. -/
  | hostDuringTick
  deriving DecidableEq, Repr

/-- The state after reset (R42, R230) with a configuration and the memory a reset leaves; `State.resetWith` in Params.lean
takes both from the parameters of the machine (R9). -/
def State.resetFrom (cfg : Cfg) (mem : Memory) : State where
  v := Vector.replicate 16 0
  i := 0
  pc := BitVec.ofNat 16 programStart
  sp := 0
  stack := Vector.replicate 16 0
  mem := mem
  dt := 0
  st := 0
  fb := Vector.replicate 32 (Vector.replicate 64 false)
  keys := Vector.replicate 16 false
  await := false
  cfg := cfg
  halted := false
  fault := none
  tickLeft := 0
  draws := 0

/-- The configuration of `State.reset`: the spec leaves it open (D14). Log entry 5. -/
def resetCfg : Cfg := ⟨resetQuirk, resetQuirk, resetQuirk, resetQuirk, resetCyclesPerTick⟩

/-- The machine right after reset, under the default parameters of R9 (log entries 5 to 7): no byte differs from its
reset contents. -/
def State.reset : State := State.resetFrom resetCfg []

end Sys2Proof.Machine
end

