-- ==== Sys2Proof/Machine/Ops.lean ====
section
/-! DEFINITION. The named operations over memory, registers, the stack, the display and the keys, the range check
(20_memory.md R55), and taking a fatal condition (60_exceptions.md R204), the machine's only exception. There is no
return from it (R205). -/

namespace Sys2Proof.Machine

/-! ## Memory (10_state.md R29, 20_memory.md R50) -/

/-- The byte at an address: the listed one, or the reset contents. -/
def Memory.read (m : Memory) (a : Nat) : Byte :=
  match m with
  | [] => unlistedByte a
  | (b, v) :: rest => if a = b then v else Memory.read rest a

/-- Store one byte, keeping the addresses rising and listing no cell that holds its reset contents. -/
def Memory.write (m : Memory) (a : Nat) (v : Byte) : Memory :=
  match m with
  | [] => if v = unlistedByte a then [] else [(a, v)]
  | (b, w) :: rest =>
    if a < b then
      if v = unlistedByte a then (b, w) :: rest else (a, v) :: (b, w) :: rest
    else if a = b then
      if v = unlistedByte a then rest else (a, v) :: rest
    else (b, w) :: Memory.write rest a v

/-- The canonical form from a lower bound on the first address: addresses strictly rising and inside the 4096 bytes,
no cell equal to its reset contents. -/
def Memory.wfFrom (lo : Nat) (m : Memory) : Bool :=
  match m with
  | [] => true
  | (a, v) :: rest =>
    decide (lo ≤ a) && decide (a < memSize) && decide (v ≠ unlistedByte a) && Memory.wfFrom (a + 1) rest

/-- The canonical form of a memory. -/
def Memory.wf (m : Memory) : Bool := Memory.wfFrom 0 m

/-- `count` bytes at rising addresses from `a` (R52). -/
def Memory.readBytes (m : Memory) (a : Nat) (count : Nat) : List Byte :=
  match count with
  | 0 => []
  | n + 1 => m.read a :: Memory.readBytes m (a + 1) n

/-- Store bytes at rising addresses from `a` (R52). -/
def Memory.writeBytes (m : Memory) (a : Nat) (bytes : List Byte) : Memory :=
  match bytes with
  | [] => m
  | b :: rest => Memory.writeBytes (m.write a b) (a + 1) rest

/-- The range check of an access to `count` bytes from `base` (R55, R165): the least address above 0xFFF among them,
or none. Addresses are unbounded naturals, not reduced before the check. -/
def firstOutOfRange (base count : Nat) : Option Nat :=
  if count = 0 ∨ base + count ≤ memSize then none else some (max base memSize)

/-! ## Registers -/

/-- `V[x]` (R20). -/
def State.getV (s : State) (x : Nibble) : Byte := s.v[x.toNat]'x.isLt

/-- `V[x] <- b` (R20). -/
def State.setV (s : State) (x : Nibble) (b : Byte) : State := { s with v := s.v.set x.toNat b x.isLt }

/-- `I <- w` (R24). -/
def State.setI (s : State) (w : Word) : State := { s with i := w }

/-- `pc <- w`: a handler that transfers control (30_encoding.md R79). -/
def State.jump (s : State) (w : Word) : State := { s with pc := w }

/-- The advance of a handler: `pc <- (pc + d) mod 65536` (R79). -/
def State.advance (s : State) (d : Word) : State := { s with pc := s.pc + d }

/-- The advance of a conditional skip: 4 if the condition holds, else 2 (41_skips.md R110). -/
def State.skipIf (s : State) (c : Bool) : State := s.advance (if c then 4 else 2)

/-- `dt <- b` (R30). -/
def State.setDt (s : State) (b : Byte) : State := { s with dt := b }

/-- `st <- b` (R30). -/
def State.setSt (s : State) (b : Byte) : State := { s with st := b }

/-- `await <- b` (R36). -/
def State.setAwait (s : State) (b : Bool) : State := { s with await := b }

/-- The memory replaced. -/
def State.setMem (s : State) (m : Memory) : State := { s with mem := m }

/-- The display replaced. -/
def State.setFb (s : State) (fb : Display) : State := { s with fb := fb }

/-- Registers written in rising order from index `k`, one byte each (45_index_memory.md R167). -/
def writeRegs (v : Vector Byte 16) (k : Nat) (bytes : List Byte) : Vector Byte 16 :=
  match bytes with
  | [] => v
  | b :: rest => writeRegs (if h : k < 16 then v.set k b h else v) (k + 1) rest

/-- `V[0]`, `V[1]`, ... take the bytes in this order (R167). -/
def State.loadV (s : State) (bytes : List Byte) : State := { s with v := writeRegs s.v 0 bytes }

/-- `V[0]`, ..., `V[x]` in this order (R166). -/
def State.regsTo (s : State) (x : Nibble) : List Byte := s.v.toList.take (x.toNat + 1)

/-! ## Stack (R26 to R28) -/

/-- Push: write at the current pointer, then increment (R28); none when `sp >= 16` (40_control_flow.md R104). -/
def State.push (s : State) (w : Word) : Option State :=
  if h : s.sp.toNat < 16 then
    some { s with stack := s.stack.set s.sp.toNat w h, sp := s.sp + 1 }
  else none

/-- The two ways a pop can end without a popped address, and the way it ends with one. -/
inductive PopResult where
  /-- `sp = 0` (R102). -/
  | underflow
  /-- The entry does not exist: `sp > 16`, a state no run reaches. -/
  | noEntry
  /-- The popped address and the state with `sp` decremented; the entry keeps its value. -/
  | popped (w : Word) (s : State)
  deriving DecidableEq, Repr

/-- Pop: decrement the pointer, then read (R28). -/
def State.pop (s : State) : PopResult :=
  if s.sp = 0 then .underflow
  else
    match s.stack[(s.sp - 1).toNat]? with
    | some w => .popped w { s with sp := s.sp - 1 }
    | none => .noEntry

/-! ## Display (R33) -/

/-- The cell at a row and a column, false outside the grid. -/
def Display.lit (fb : Display) (r c : Nat) : Bool :=
  if h : r < 32 ∧ c < 64 then (fb[r]'h.1)[c]'h.2 else false

/-- XOR a 1 into the cell at a row and a column. -/
def Display.toggle (fb : Display) (r c : Nat) : Display :=
  if h : r < 32 ∧ c < 64 then fb.set r ((fb[r]'h.1).set c (!(fb[r]'h.1)[c]'h.2) h.2) h.1 else fb

/-- Every cell 0 (R141). -/
def Display.clear : Display := Vector.replicate 32 (Vector.replicate 64 false)

/-- The cells under the 1 bits of one sprite row at a display row: bit 7 is the leftmost, every coordinate wraps
(43_display.md R142). -/
def spriteRowCells (x0 r : Nat) (row : Byte) : List (Nat × Nat) :=
  ((List.range 8).filter fun c => row.getLsbD (7 - c)).map fun c => (r % 32, (x0 + c) % 64)

/-- The cells under the 1 bits of a sprite, row by row from display row `y0` (R142). -/
def spriteCells (x0 y0 : Nat) (rows : List Byte) : List (Nat × Nat) :=
  match rows with
  | [] => []
  | row :: rest => spriteRowCells x0 y0 row ++ spriteCells x0 (y0 + 1) rest

/-- One cell of the XOR-blit: note a hit if the cell is 1, then toggle it (R142). -/
def blitCell (acc : Display × Bool) (rc : Nat × Nat) : Display × Bool :=
  (acc.1.toggle rc.1 rc.2, acc.2 || acc.1.lit rc.1 rc.2)

/-- The XOR-blit of a list of cells: the new grid and the collision bit (R142). -/
def blit (fb : Display) (cells : List (Nat × Nat)) : Display × Bool := cells.foldl blitCell (fb, false)

/-! ## Keys (R35) -/

/-- `keys[k]`, false for a number that is no key. -/
def State.keyDown (s : State) (k : Nat) : Bool := if h : k < 16 then s.keys[k] else false

/-- The lowest-indexed pressed key (44_keypad_timers.md R153). -/
def State.lowestKey (s : State) : Option Nat := (List.range 16).find? s.keyDown

/-! ## The random draw (42_alu.md R132) -/

/-- `rand8()`: the byte the next draw gives. -/
def State.draw (s : State) : Byte := Config.rand8 s.draws

/-- The draw is made: the next one is another. -/
def State.afterDraw (s : State) : State := { s with draws := s.draws + 1 }

/-! ## Taking a fatal condition (60_exceptions.md R204) -/

/-- `raise Fatal(cause, info)` for a cycle whose word is `w` (none for a fetch fault): the record is written, `halted`
is set, and nothing else changes. -/
def State.raiseFatal (s : State) (cause : FatalCause) (info : Nat) (w : Option Word) : State :=
  { s with halted := true, fault := some ⟨cause, info, s.pc, w⟩ }

/-- A fatal condition raised by the handler of an instruction: the next state is the halted one. -/
def fatal (s : State) (cause : FatalCause) (info : Nat) (i : Instr) : Host.Outcome State Fault Refusal :=
  .next (s.raiseFatal cause info (some (encodeWord i)))

/-- An instruction that accesses `count` bytes of memory from `I`: all checks before the first effect (R55, R204). -/
def withRange (s : State) (count : Nat) (i : Instr) (after : State) : Host.Outcome State Fault Refusal :=
  match firstOutOfRange s.i.toNat count with
  | some a => fatal s .memOutOfRange a i
  | none => .next after

end Sys2Proof.Machine
end

