-- ==== Sys2Proof/Machine/Params.lean ====
section
/-! DEFINITION. The parameters of the machine (00_scope.md R9; the table at the end of 92_eei_decisions.md), fixed for a
machine, and the state after reset under them (10_state.md R42, 70_reset_and_hazards.md R230). The draw of R9 is
`Config.rand8`. -/

namespace Sys2Proof.Machine

/-- The parameters of R9, each with the range R9 gives it. -/
structure Params where
  /-- `FONT[0..79]` (10_state.md R32, decision D15). -/
  font : List Byte
  /-- `PROGRAM_END` (decision D13); it limits `load` only. -/
  programEnd : Nat
  /-- The configuration a reset leaves (R42, decision D14). -/
  cfg : Cfg
  font_length : font.length = 80
  programEnd_gt : programStart < programEnd
  programEnd_le : programEnd ≤ memSize
  cycles_pos : 1 ≤ cfg.cyclesPerTick
  deriving DecidableEq, Repr

/-- The default font and program end of R9 (log entries 6 and 7) under a configuration. -/
def Params.withCfg (cfg : Cfg) (h : 1 ≤ cfg.cyclesPerTick) : Params where
  font := defaultFont
  programEnd := defaultProgramEnd
  cfg := cfg
  font_length := rfl
  programEnd_gt := by decide
  programEnd_le := by decide
  cycles_pos := h

/-- The parameters of `State.reset`: the defaults of R9, and the configuration log entry 5 names. -/
def Params.standard : Params := Params.withCfg resetCfg (by decide)

/-- Memory after reset: a font at 0x050 and 0 everywhere else (R42). -/
def fontMemory (font : List Byte) : Memory := Memory.writeBytes [] fontBase font

/-- The state after reset under the parameters of the machine (R42, R230). -/
def State.resetWith (p : Params) : State := State.resetFrom p.cfg (fontMemory p.font)

end Sys2Proof.Machine
end

