-- ==== Sys2Proof/Machine/Operands.lean ====
section
/-! DEFINITION. The operand forms: immediates, zero-extended (30_encoding.md R73), the register a quirk flag selects
(00_scope.md R10), and the address forms of `I` (45_index_memory.md R160 to R165). -/

namespace Sys2Proof.Machine

/-- `nnn` as a 16-bit address (R73). -/
def addrOperand (nnn : Addr) : Word := nnn.setWidth 16

/-- The source register's value of SHR and SHL: `V[x]` under `cfg.shifting`, else `V[y]` (42_alu.md R128). -/
def shiftSource (s : State) (x y : Nibble) : Byte := if s.cfg.shifting then s.getV x else s.getV y

/-- The register of JP V0: bits 11:8 of the word under `cfg.jumping`, else register 0 (40_control_flow.md R105). -/
def offsetRegister (s : State) (nnn : Addr) : Nibble := if s.cfg.jumping then nnn.extractLsb' 8 4 else 0

/-- The target of JP V0: all 12 bits of the address plus the register, mod 65536 (R105). -/
def offsetTarget (s : State) (nnn : Addr) : Word :=
  addrOperand nnn + (s.getV (offsetRegister s nnn)).setWidth 16

/-- `(I + V[x]) mod 65536` (R162). -/
def indexPlus (s : State) (x : Nibble) : Word := s.i + (s.getV x).setWidth 16

/-- The address of the glyph of the low nibble of a value (R163). -/
def glyphAddress (b : Byte) : Word := BitVec.ofNat 16 (fontBase + 5 * (b.toNat % 16))

/-- The three decimal digits of a value, hundreds first (R164). -/
def bcdDigits (b : Byte) : List Byte :=
  [BitVec.ofNat 8 (b.toNat / 100), BitVec.ofNat 8 (b.toNat / 10 % 10), BitVec.ofNat 8 (b.toNat % 10)]

/-- `I` after a bulk transfer of `V[0..x]`: advanced by `x + 1` under `cfg.memory` (R165). -/
def indexAfterBulk (s : State) (x : Nibble) : Word :=
  if s.cfg.memory then s.i + BitVec.ofNat 16 (x.toNat + 1) else s.i

/-- The number of bytes a bulk transfer of `V[0..x]` moves (R165). -/
def bulkCount (x : Nibble) : Nat := x.toNat + 1

/-- The column of a sprite's left edge (43_display.md R142). -/
def spriteColumn (s : State) (x : Nibble) : Nat := (s.getV x).toNat % 64

/-- The row of a sprite's top edge (R142). -/
def spriteRow (s : State) (y : Nibble) : Nat := (s.getV y).toNat % 32

end Sys2Proof.Machine
end

