-- ==== Sys2Proof/Machine/Flags.lean ====
section
/-! DEFINITION. The results and flags of the arithmetic unit (10_state.md R22; 42_alu.md R120 to R134). The flag is the
register `V[15]`, and its write is the last of the instruction (R134). -/

namespace Sys2Proof.Machine

/-- An 8-bit result and the flag bit that goes with it. -/
structure AluResult where
  value : Byte
  flag : Bool
  deriving DecidableEq, Repr

/-- A flag bit as the byte `V[15]` receives. -/
def flagByte (b : Bool) : Byte := if b then 1 else 0

/-- `V[15] <- b` (R22). -/
def State.setFlag (s : State) (b : Bool) : State := s.setV 15 (flagByte b)

/-- `V[x]` takes the result, then `V[15]` the flag: with `x = 15` the flag replaces the result (R134). -/
def State.writeResult (s : State) (x : Nibble) (r : AluResult) : State := (s.setV x r.value).setFlag r.flag

/-- `V[x]` takes the result, then `V[15]` is cleared if `cfg.vf_reset` (R123 to R125). -/
def State.writeLogic (s : State) (x : Nibble) (b : Byte) : State :=
  if s.cfg.vfReset then (s.setV x b).setFlag false else s.setV x b

/-- The sum mod 256, and the carry: the exact sum exceeds 255 (R126). -/
def aluAdd (a b : Byte) : AluResult := ⟨a + b, decide (255 < a.toNat + b.toNat)⟩

/-- The difference mod 256, and no borrow: minuend >= subtrahend (R127, R129). -/
def aluSub (a b : Byte) : AluResult := ⟨a - b, decide (b.toNat ≤ a.toNat)⟩

/-- Logical shift right by one, and the bit shifted out (R128). -/
def aluShr (a : Byte) : AluResult := ⟨a >>> 1, a.getLsbD 0⟩

/-- Shift left by one mod 256, and the bit shifted out (R130). -/
def aluShl (a : Byte) : AluResult := ⟨a <<< 1, a.getLsbD 7⟩

end Sys2Proof.Machine
end

