-- ==== Sys2Proof/Machine/Alu.lean ====
section
/-! DEFINITION. Register arithmetic, logic and RND (42_alu.md R120 to R134). All twelve advance by 2 and raise nothing;
operands are read from the state before the instruction. -/

namespace Sys2Proof.Machine

/-- LD Vx, byte (R121). -/
def execLdImm (x : Nibble) (nn : Byte) (s : State) : Host.Outcome State Fault Refusal :=
  .next ((s.setV x nn).advance 2)

/-- ADD Vx, byte: mod 256, no flag (R122). -/
def execAddImm (x : Nibble) (nn : Byte) (s : State) : Host.Outcome State Fault Refusal :=
  .next ((s.setV x (s.getV x + nn)).advance 2)

/-- LD Vx, Vy (R131). -/
def execLdReg (x y : Nibble) (s : State) : Host.Outcome State Fault Refusal :=
  .next ((s.setV x (s.getV y)).advance 2)

/-- OR Vx, Vy (R123). -/
def execOr (x y : Nibble) (s : State) : Host.Outcome State Fault Refusal :=
  .next ((s.writeLogic x (s.getV x ||| s.getV y)).advance 2)

/-- AND Vx, Vy (R124). -/
def execAnd (x y : Nibble) (s : State) : Host.Outcome State Fault Refusal :=
  .next ((s.writeLogic x (s.getV x &&& s.getV y)).advance 2)

/-- XOR Vx, Vy (R125). -/
def execXor (x y : Nibble) (s : State) : Host.Outcome State Fault Refusal :=
  .next ((s.writeLogic x (s.getV x ^^^ s.getV y)).advance 2)

/-- ADD Vx, Vy (R126). -/
def execAddReg (x y : Nibble) (s : State) : Host.Outcome State Fault Refusal :=
  .next ((s.writeResult x (aluAdd (s.getV x) (s.getV y))).advance 2)

/-- SUB Vx, Vy: `V[x] - V[y]` (R127). -/
def execSub (x y : Nibble) (s : State) : Host.Outcome State Fault Refusal :=
  .next ((s.writeResult x (aluSub (s.getV x) (s.getV y))).advance 2)

/-- SHR Vx {, Vy} (R128). -/
def execShr (x y : Nibble) (s : State) : Host.Outcome State Fault Refusal :=
  .next ((s.writeResult x (aluShr (shiftSource s x y))).advance 2)

/-- SUBN Vx, Vy: `V[y] - V[x]` (R129). -/
def execSubn (x y : Nibble) (s : State) : Host.Outcome State Fault Refusal :=
  .next ((s.writeResult x (aluSub (s.getV y) (s.getV x))).advance 2)

/-- SHL Vx {, Vy} (R130). -/
def execShl (x y : Nibble) (s : State) : Host.Outcome State Fault Refusal :=
  .next ((s.writeResult x (aluShl (shiftSource s x y))).advance 2)

/-- RND Vx, byte: a fresh draw AND the mask (R132). -/
def execRnd (x : Nibble) (nn : Byte) (s : State) : Host.Outcome State Fault Refusal :=
  .next ((s.afterDraw.setV x (s.draw &&& nn)).advance 2)

end Sys2Proof.Machine
end

