-- ==== Sys2Proof/Machine/ControlFlow.lean ====
section
/-! DEFINITION. SYS, RET, JP, CALL and JP V0 (40_control_flow.md R100 to R105). None of them advances: the handler writes
`pc` itself or raises a fatal condition. -/

namespace Sys2Proof.Machine

/-- SYS addr: the fatal condition of the unknown sentinel, always (R101). -/
def execSys (nnn : Addr) (s : State) : Host.Outcome State Fault Refusal :=
  fatal s .unknownOpcode (encodeWord (.sys nnn)).toNat (.sys nnn)

/-- RET: pop into `pc`; `sp = 0` raises StackUnderflow (R102). -/
def execRet (ign : Nibble) (s : State) : Host.Outcome State Fault Refusal :=
  match s.pop with
  | .underflow => fatal s .stackUnderflow s.sp.toNat (.ret ign)
  | .noEntry => .fault .stackIndexOutOfArray
  | .popped w t => .next (t.jump w)

/-- JP addr (R103). -/
def execJp (nnn : Addr) (s : State) : Host.Outcome State Fault Refusal := .next (s.jump (addrOperand nnn))

/-- CALL addr: push `pc + 2`, go to `nnn`; a full stack raises StackOverflow (R104). -/
def execCall (nnn : Addr) (s : State) : Host.Outcome State Fault Refusal :=
  match s.push (s.pc + 2) with
  | some t => .next (t.jump (addrOperand nnn))
  | none => fatal s .stackOverflow s.sp.toNat (.call nnn)

/-- JP V0, addr (R105). -/
def execJpV0 (nnn : Addr) (s : State) : Host.Outcome State Fault Refusal := .next (s.jump (offsetTarget s nnn))

end Sys2Proof.Machine
end

