-- ==== Sys2Proof/Machine/DisplayOps.lean ====
section
/-! DEFINITION. CLS and DRW (43_display.md R140 to R143). -/

namespace Sys2Proof.Machine

/-- CLS: every cell 0 (R141). -/
def execCls (s : State) : Host.Outcome State Fault Refusal := .next ((s.setFb Display.clear).advance 2)

/-- The blit of the sprite of `n` rows at `I`, drawn at `(V[x], V[y])`: the new grid and the collision bit. -/
def drawSprite (s : State) (x y n : Nibble) : Display × Bool :=
  blit s.fb (spriteCells (spriteColumn s x) (spriteRow s y) (s.mem.readBytes s.i.toNat n.toNat))

/-- DRW Vx, Vy, nibble: all range checks first, the collision flag last (R142). -/
def execDrw (x y n : Nibble) (s : State) : Host.Outcome State Fault Refusal :=
  withRange s n.toNat (.drw x y n)
    (((s.setFb (drawSprite s x y n).1).setFlag (drawSprite s x y n).2).advance 2)

end Sys2Proof.Machine
end

