-- ==== Sys2Proof/Machine/IndexMemory.lean ====
section
/-! DEFINITION. The address register and the memory transfers (45_index_memory.md R160 to R167). -/

namespace Sys2Proof.Machine

/-- LD I, addr (R161). -/
def execLdI (nnn : Addr) (s : State) : Host.Outcome State Fault Refusal := .next ((s.setI (addrOperand nnn)).advance 2)

/-- ADD I, Vx: mod 65536, no flag (R162). -/
def execAddI (x : Nibble) (s : State) : Host.Outcome State Fault Refusal := .next ((s.setI (indexPlus s x)).advance 2)

/-- LD F, Vx: the glyph of the low nibble (R163). -/
def execLdF (x : Nibble) (s : State) : Host.Outcome State Fault Refusal :=
  .next ((s.setI (glyphAddress (s.getV x))).advance 2)

/-- LD B, Vx: three decimal digits at `I`, `I + 1`, `I + 2`; `I` is kept (R164). -/
def execLdB (x : Nibble) (s : State) : Host.Outcome State Fault Refusal :=
  withRange s 3 (.ldB x) ((s.setMem (s.mem.writeBytes s.i.toNat (bcdDigits (s.getV x)))).advance 2)

/-- LD [I], Vx: `V[0..x]` to memory (R165, R166). -/
def execStoreRegs (x : Nibble) (s : State) : Host.Outcome State Fault Refusal :=
  withRange s (bulkCount x) (.storeRegs x)
    (((s.setMem (s.mem.writeBytes s.i.toNat (s.regsTo x))).setI (indexAfterBulk s x)).advance 2)

/-- LD Vx, [I]: memory to `V[0..x]` (R165, R167). -/
def execLoadRegs (x : Nibble) (s : State) : Host.Outcome State Fault Refusal :=
  withRange s (bulkCount x) (.loadRegs x)
    (((s.loadV (s.mem.readBytes s.i.toNat (bulkCount x))).setI (indexAfterBulk s x)).advance 2)

end Sys2Proof.Machine
end

