-- ==== Sys2Proof/Machine/KeypadTimers.lean ====
section
/-! DEFINITION. The keypad skips, the wait for a key and the timer transfers (44_keypad_timers.md R150 to R157). -/

namespace Sys2Proof.Machine

/-- The key check common to SKP and SKNP: a register value above 15 is no key (R151, R152). -/
def withKey (s : State) (x : Nibble) (i : Instr) (after : State) : Host.Outcome State Fault Refusal :=
  if 15 < (s.getV x).toNat then fatal s .keyIndexOutOfRange (s.getV x).toNat i else .next after

/-- SKP Vx (R151). -/
def execSkp (x : Nibble) (s : State) : Host.Outcome State Fault Refusal :=
  withKey s x (.skp x) (s.skipIf (s.keyDown (s.getV x).toNat))

/-- SKNP Vx (R152). -/
def execSknp (x : Nibble) (s : State) : Host.Outcome State Fault Refusal :=
  withKey s x (.sknp x) (s.skipIf (!s.keyDown (s.getV x).toNat))

/-- LD Vx, K: the lowest pressed key and advance 2, or `await` and advance 0 (R153). -/
def execLdVxK (x : Nibble) (s : State) : Host.Outcome State Fault Refusal :=
  match s.lowestKey with
  | some k => .next (((s.setV x (BitVec.ofNat 8 k)).setAwait false).advance 2)
  | none => .next ((s.setAwait true).advance 0)

/-- LD Vx, DT (R154). -/
def execLdVxDt (x : Nibble) (s : State) : Host.Outcome State Fault Refusal := .next ((s.setV x s.dt).advance 2)

/-- LD DT, Vx (R155). -/
def execLdDtVx (x : Nibble) (s : State) : Host.Outcome State Fault Refusal := .next ((s.setDt (s.getV x)).advance 2)

/-- LD ST, Vx (R156). -/
def execLdStVx (x : Nibble) (s : State) : Host.Outcome State Fault Refusal := .next ((s.setSt (s.getV x)).advance 2)

end Sys2Proof.Machine
end

