-- ==== Sys2Proof/Machine/Cycle.lean ====
section
/-! DEFINITION. One cycle: fetch, decode, dispatch, execute, advance (30_encoding.md R78), and the word the fetch of a
state is made to see. -/

namespace Sys2Proof.Machine

/-- The fetch (20_memory.md R53, R55): the word at `pc`, or the least of `pc`, `pc + 1` above 0xFFF. -/
def State.fetch (s : State) : Except Nat Word :=
  match firstOutOfRange s.pc.toNat 2 with
  | some a => .error a
  | none => .ok (wordOfBytes (s.mem.read s.pc.toNat) (s.mem.read (s.pc.toNat + 1)))

/-- One cycle (R78). A halted state does nothing; a fatal condition of the fetch or of the classification is taken
here, in the order of R206, and one of a handler by its meaning. -/
def cycle (s : State) : Host.Outcome State Fault Refusal :=
  if s.halted then .next s
  else
    match s.fetch with
    | .error a => .next (s.raiseFatal .memOutOfRange a none)
    | .ok w =>
      match decodeWord w with
      | .error _ => .next (s.raiseFatal .unknownOpcode w.toNat (some w))
      | .ok i => exec i s

/-- The state with a word stored at `pc`, high byte first (R53). An address that does not exist takes no byte. -/
def State.storeAtPc (s : State) (w : Word) : State :=
  match firstOutOfRange s.pc.toNat 2 with
  | some _ => s
  | none => s.setMem (s.mem.writeBytes s.pc.toNat (bytesOfWord w))

end Sys2Proof.Machine
end

