-- ==== Sys2Proof/Machine/Tick.lean ====
section
/-! DEFINITION. The timer step and the tick (60_exceptions.md R212, R213), the tick as the spec writes it and as a
sequence of single cycles that a host calling `tick()` again and again produces. Log entry 2. -/

namespace Sys2Proof.Machine

/-- One timer counted down, never below 0 (R213). -/
def countDown (t : Byte) : Byte := if t = 0 then 0 else t - 1

/-- The timer step (R213). -/
def timerStep (s : State) : State := { s with dt := countDown s.dt, st := countDown s.st }

/-! ## The tick as R212 writes it -/

/-- The remaining cycles of a tick and, if none of them halts, its timer step (R212). -/
def tickLoop (left : Nat) (s : State) : Host.Outcome State Fault Refusal :=
  match left with
  | 0 => .next (timerStep s)
  | k + 1 =>
    match cycle s with
    | .next t => if t.halted then .next t else tickLoop k t
    | .fault r => .fault r
    | .refused r => .refused r

/-- `tick()` (R212): the budget is the value at the start of the tick. -/
def tick (s : State) : Host.Outcome State Fault Refusal :=
  if s.halted then .next s else tickLoop s.cfg.cyclesPerTick s

/-! ## The tick cycle by cycle -/

/-- The state with another number of cycles left. -/
def State.setTickLeft (s : State) (k : Nat) : State := { s with tickLeft := k }

/-- The cycles left before the next one: those of the tick in progress, or a whole new tick. -/
def State.budget (s : State) : Nat := if s.tickLeft = 0 then s.cfg.cyclesPerTick else s.tickLeft

/-- What follows a cycle that began with `left` cycles left: a fatal condition abandons the tick without its timer
step (R204), the last cycle is followed by the timer step, any other by the next cycle (R212). -/
def endCycle (left : Nat) (s : State) : State :=
  if s.halted then s.setTickLeft 0
  else if left ≤ 1 then (timerStep s).setTickLeft 0
  else s.setTickLeft (left - 1)

/-- One cycle within its tick. A halted machine does nothing (R204). -/
def stepCycle (s : State) : Host.Outcome State Fault Refusal :=
  if s.halted then .next s
  else
    match cycle s with
    | .next t => .next (endCycle s.budget t)
    | .fault r => .fault r
    | .refused r => .refused r

end Sys2Proof.Machine
end

