-- ==== Sys2Proof/Machine/Transactions.lean ====
section
/-! DEFINITION. What the host can do to the machine, between ticks only (70_reset_and_hazards.md R236 to R241). -/

namespace Sys2Proof.Machine

/-- What a `set_config` asks for: each field may be written or left (R239); the budget is any integer. -/
structure ConfigRequest where
  vfReset : Option Bool
  memory : Option Bool
  shifting : Option Bool
  jumping : Option Bool
  cyclesPerTick : Option Int
  deriving DecidableEq, Repr

/-- The values the diagnostic dump shows: the display grid, the registers and the timers, and the two this spec adds
(R241). Log entry 31. -/
structure Dump where
  fb : Display
  v : Vector Byte 16
  i : Word
  pc : Word
  sp : Word
  dt : Byte
  st : Byte
  halted : Bool
  fault : Option FatalRecord
  deriving DecidableEq, Repr

/-- The host's transactions (R241). -/
inductive HostMove where
  | reset
  | load (bytes : List Byte)
  | setKey (k : Nibble) (pressed : Bool)
  | setConfig (req : ConfigRequest)
  | tick
  | readDisplay
  | readDump
  deriving DecidableEq, Repr

/-- What the block returns to the host (R241). -/
inductive HostReply where
  | nothing
  | loadOk
  | loadRejected
  | ticked (halted : Bool)
  | display (fb : Display)
  | dump (d : Dump)
  deriving DecidableEq, Repr

/-- `reset` (R230): the reset state under the parameters of the machine; the host sends nothing (R241). The count of draws
goes on, so that the draws after a reset are not those before it (log entry 1). -/
def State.afterReset (p : Params) (s : State) : State := { State.resetWith p with draws := s.draws }

/-- `load(bytes)` under the program end of the machine (R236): none when it is rejected, which changes nothing. -/
def State.load (p : Params) (s : State) (bytes : List Byte) : Option State :=
  if bytes.length ≤ p.programEnd - programStart then some (s.setMem (s.mem.writeBytes programStart bytes)) else none

/-- `set_key(k, pressed)` (R238). -/
def State.setKey (s : State) (k : Nibble) (pressed : Bool) : State :=
  { s with keys := s.keys.set k.toNat pressed k.isLt }

/-- The stored cycle budget of a request: `max(1, requested)` (R239). -/
def clampCycles (n : Int) : Nat := (max 1 n).toNat

/-- The configuration after a request (R239). -/
def Cfg.update (c : Cfg) (req : ConfigRequest) : Cfg where
  vfReset := req.vfReset.getD c.vfReset
  memory := req.memory.getD c.memory
  shifting := req.shifting.getD c.shifting
  jumping := req.jumping.getD c.jumping
  cyclesPerTick := (req.cyclesPerTick.map clampCycles).getD c.cyclesPerTick

/-- `set_config` (R239). -/
def State.setConfig (s : State) (req : ConfigRequest) : State := { s with cfg := s.cfg.update req }

/-- The diagnostic dump (R241). -/
def State.dump (s : State) : Dump := ⟨s.fb, s.v, s.i, s.pc, s.sp, s.dt, s.st, s.halted, s.fault⟩

/-- The tick the host calls, with what it returns. DESIGN CHOICE (log entry 32): that `tick()` returns `halted`. "how it is
told (a return value of `tick()`, a status line) is not in the source" (60_exceptions.md R204). -/
def tickReply (s : State) : Host.Outcome (State × HostReply) Fault Refusal :=
  match tick s with
  | .next t => .next (t, .ticked t.halted)
  | .fault r => .fault r
  | .refused r => .refused r

/-- One transaction of the host (R241), on a machine with the given parameters. A move during a tick is refused: the model
has none (R240). -/
def hostAct (p : Params) (m : HostMove) (s : State) : Host.Outcome (State × HostReply) Fault Refusal :=
  if s.tickLeft ≠ 0 then .refused .hostDuringTick
  else
    match m with
    | .reset => .next (State.afterReset p s, .nothing)
    | .load bytes =>
      match s.load p bytes with
      | some t => .next (t, .loadOk)
      | none => .next (s, .loadRejected)
    | .setKey k pressed => .next (s.setKey k pressed, .nothing)
    | .setConfig req => .next (s.setConfig req, .nothing)
    | .tick => tickReply s
    | .readDisplay => .next (s, .display s.fb)
    | .readDump => .next (s, .dump s.dump)

end Sys2Proof.Machine
end

