-- ==== Sys2Proof/Machine/Step.lean ====
section
/-! DEFINITION. The step of the machine (00_scope.md R18): one cycle within its tick. -/

namespace Sys2Proof.Machine

/-- One step: one cycle, and after the last cycle of a tick the timer step. -/
def step (s : State) : Host.Outcome State Fault Refusal := stepCycle s

/-- The state with an opcode table word stored at `pc`, where the step fetches its next instruction. -/
def State.withFetchWord (s : State) (nbits w : Nat) : State := s.storeAtPc (tableWord nbits w)

end Sys2Proof.Machine
end

