-- ==== Sys2Proof/Safety.lean ====
section
/-! DEFINITION. The terms claims are made in: what is true of every state the machine can be in (10_state.md R41), what a
safe state is, what an instruction may leave changed, which instruction writes which piece of state, the cells a sprite
covers, and a run of cycles. -/

namespace Sys2Proof.Machine

/-! ## Invariant and safety -/

/-- The invariant of the machine: memory in its canonical form inside the 4096 bytes (R29), the stack pointer within
the stack (R27), a cycle budget of at least 1 (R37), the halt latch set exactly when a fault is recorded, and no tick
in progress once halted (R38, R204). -/
abbrev State.Inv (s : State) : Prop :=
  s.mem.wf = true ∧ s.sp.toNat ≤ 16 ∧ 1 ≤ s.cfg.cyclesPerTick ∧ s.halted = s.fault.isSome ∧
    (s.halted = true → s.tickLeft = 0)

/-- A safe state: no fatal condition has been taken. -/
abbrev State.Safe (s : State) : Prop := s.halted = false

/-! ## Frames: what may differ between a state and the next -/

/-- Every byte of memory reads as before. -/
def SameBytes (s t : State) : Prop := ∀ a, t.mem.read a = s.mem.read a

/-- Nothing differs but `pc`. -/
def OnlyPc (s t : State) : Prop := t = { s with pc := t.pc } ∧ SameBytes s t

/-- Nothing differs but `V` and `pc`; the statement that uses it says which registers. -/
def OnlyRegsPc (s t : State) : Prop := t = { s with v := t.v, pc := t.pc } ∧ SameBytes s t

/-- Nothing differs but `I` and `pc`. -/
def OnlyIPc (s t : State) : Prop := t = { s with i := t.i, pc := t.pc } ∧ SameBytes s t

/-- Nothing differs but the halt latch and the fault record (R204). -/
def OnlyHalt (s t : State) : Prop := t = { s with halted := t.halted, fault := t.fault } ∧ SameBytes s t

/-- `pc` is `d` bytes further, mod 65536 (30_encoding.md R79). -/
def Advanced (s t : State) (d : Nat) : Prop := t.pc.toNat = (s.pc.toNat + d) % 65536

/-- The fatal condition `(c, n)` of an instruction is taken: the latch and the record, and nothing else (R204). -/
def TakesFatal (s t : State) (c : FatalCause) (n : Nat) (w : Option Word) : Prop :=
  t.halted = true ∧ t.fault = some ⟨c, n, s.pc, w⟩ ∧ OnlyHalt s t

/-- Every word that has the bits `pattern` under `mask` decodes to the instruction `f` gives for it. -/
def Encodes (mask pattern : Word) (f : Word → Instr) : Prop :=
  ∀ w : Word, w &&& mask = pattern → decodeWord w = .ok (f w)

end Sys2Proof.Machine

namespace Sys2Proof

/-! ## Who writes what -/

/-- The registers an instruction may write (10_state.md R22; 42_alu.md R120). -/
def Instr.writesV (cfg : Machine.Cfg) (k : Nibble) : Instr → Bool
  | .ldImm x _ | .addImm x _ | .ldReg x _ | .rnd x _ | .ldVxDt x | .ldVxK x => k == x
  | .orReg x _ | .andReg x _ | .xorReg x _ => k == x || (cfg.vfReset && k == 15)
  | .addReg x _ | .sub x _ | .shr x _ | .subn x _ | .shl x _ => k == x || k == 15
  | .drw _ _ _ => k == 15
  | .loadRegs x => decide (k.toNat ≤ x.toNat)
  | .sys _ | .cls _ | .ret _ | .jp _ | .call _ | .seImm _ _ | .sneImm _ _ | .seReg _ _ _ | .sneReg _ _ _ | .ldI _
  | .jpV0 _ | .skp _ | .sknp _ | .ldDtVx _ | .ldStVx _ | .addI _ | .ldF _ | .ldB _ | .storeRegs _ => false

/-- The instructions that may write `I` (10_state.md R24). -/
def Instr.writesI (cfg : Machine.Cfg) : Instr → Bool
  | .ldI _ | .addI _ | .ldF _ => true
  | .storeRegs _ | .loadRegs _ => cfg.memory
  | .sys _ | .cls _ | .ret _ | .jp _ | .call _ | .seImm _ _ | .sneImm _ _ | .seReg _ _ _ | .ldImm _ _ | .addImm _ _
  | .ldReg _ _ | .orReg _ _ | .andReg _ _ | .xorReg _ _ | .addReg _ _ | .sub _ _ | .shr _ _ | .subn _ _ | .shl _ _
  | .sneReg _ _ _ | .jpV0 _ | .rnd _ _ | .drw _ _ _ | .skp _ | .sknp _ | .ldVxDt _ | .ldVxK _ | .ldDtVx _ | .ldStVx _
  | .ldB _ => false

/-- The instructions that can raise a fatal condition (60_exceptions.md R200). -/
def Instr.mayFault : Instr → Bool
  | .sys _ | .call _ | .ret _ | .drw _ _ _ | .ldB _ | .storeRegs _ | .loadRegs _ | .skp _ | .sknp _ => true
  | .cls _ | .jp _ | .seImm _ _ | .sneImm _ _ | .seReg _ _ _ | .ldImm _ _ | .addImm _ _ | .ldReg _ _ | .orReg _ _
  | .andReg _ _ | .xorReg _ _ | .addReg _ _ | .sub _ _ | .shr _ _ | .subn _ _ | .shl _ _ | .sneReg _ _ _ | .ldI _
  | .jpV0 _ | .rnd _ _ | .ldVxDt _ | .ldVxK _ | .ldDtVx _ | .ldStVx _ | .addI _ | .ldF _ => false

end Sys2Proof

namespace Sys2Proof.Machine

/-! ## The cells a sprite covers -/

/-- The cell at row `r` and column `c` lies under a 1 bit of the sprite of `n` rows at `I` drawn at `(V[x], V[y])`
(43_display.md R142). -/
def SpriteCovers (s : State) (x y n : Nibble) (r c : Nat) : Prop :=
  ∃ i j, i < n.toNat ∧ j < 8 ∧ (s.mem.read (s.i.toNat + i)).getLsbD (7 - j) = true ∧
    r = ((s.getV y).toNat % 32 + i) % 32 ∧ c = ((s.getV x).toNat % 64 + j) % 64

/-! ## Runs of cycles -/

/-- `k` cycles of 30_encoding.md R78 in a row, with no tick around them. DESIGN CHOICE (log entry 33): a run, here and in
`Host.Core.run`, ends after a count of cycles or steps; 70_reset_and_hazards.md R242 leaves the end of a run to "a
condition of its own choosing". -/
def cycles (k : Nat) (s : State) : Host.Outcome State Fault Refusal :=
  match k with
  | 0 => .next s
  | n + 1 =>
    match cycle s with
    | .next t => cycles n t
    | .fault r => .fault r
    | .refused r => .refused r

end Sys2Proof.Machine
end

