-- ==== Sys2Proof/Certificates/Slice0/Obligations.lean ====
section
/-! DEFINITION. The statements for the provers. Each docstring names the rule of spec/ it formalises; where a clause
rests on a decision of the spec (D<n> of 92_eei_decisions.md), on general knowledge the spec marks as its own, or on a
log entry of the model (notes/assumptions), it says so. Every clause `Encodes mask match`, and every statement of the
first section but FieldsOfAWord, rests on the opcode numbers, which are general knowledge the spec marks (R74, D21; log
entry 9). Every clause about a fatal condition rests on decision D4 (log entry 12). -/

open Sys2Proof Sys2Proof.Machine

/-! ## Encoding -/

/-- R71: the six fields of a word, at the source's positions, and how they overlap. -/
def Obligations.FieldsOfAWord : Prop :=
  ∀ w : Word, (opOf w).toNat = w.toNat / 4096 ∧ (xOf w).toNat = w.toNat / 256 % 16 ∧
    (yOf w).toNat = w.toNat / 16 % 16 ∧ (nOf w).toNat = w.toNat % 16 ∧ (nnOf w).toNat = w.toNat % 256 ∧
    (nnnOf w).toNat = w.toNat % 4096 ∧ nnnOf w = xOf w ++ yOf w ++ nOf w ∧ nnOf w = yOf w ++ nOf w

/-- Words written out from the encodings of 30_encoding.md R81, one or two a family, decode to the instructions they
stand for; one unknown word is refused. -/
def Obligations.DecodesSampleWords : Prop :=
  decode [0x00, 0xE0] = .ok (.cls 0, []) ∧ decode [0x00, 0xEE] = .ok (.ret 0, []) ∧
  decode [0x22, 0x10] = .ok (.call 0x210, []) ∧ decode [0x31, 0x2A] = .ok (.seImm 1 0x2A, []) ∧
  decode [0x8A, 0xB4] = .ok (.addReg 0xA 0xB, []) ∧ decode [0xD0, 0x15] = .ok (.drw 0 1 5, []) ∧
  decode [0xF1, 0x0A] = .ok (.ldVxK 1, []) ∧ decode [0xF2, 0x65] = .ok (.loadRegs 2, []) ∧
  decode [0x80, 0x08] = .error (.unknownOpcode 0x8008)

/-- R70, R80, R81: decoding the bytes of a well-formed instruction, whatever follows them, gives the instruction and
what follows; no operand bit is dropped, the ignored ones of R77 included. -/
def Obligations.DecodeOfEncode : Prop :=
  ∀ (i : Instr) (rest : List Byte), i.WellFormed → decode (encode i ++ rest) = .ok (i, rest)

/-- R72, R81: the instruction a word decodes to is well-formed and encodes to that very word. -/
def Obligations.EncodeOfDecode : Prop :=
  ∀ (w : Word) (i : Instr), decodeWord w = .ok i → i.WellFormed ∧ encodeWord i = w

/-- R74 to R77, R81: the two-level classification gives every word the slot that the map of masks gives it, the row
with the most mask bits winning, and the unknown sentinel exactly where no row matches. -/
def Obligations.ClassificationIsTheOpcodeMap : Prop :=
  ∀ w : Word, slotByMap w =
    match decodeWord w with
    | .ok i => some i.slot
    | .error _ => none

/-- R82: the words that classify to UNKNOWN. -/
def Obligations.UnknownWordsAreThese : Prop :=
  ∀ w : Word, decodeWord w = .error (.unknownOpcode w) ↔
    (opOf w = 8 ∧ nOf w ∈ [0x8#4, 0x9#4, 0xA#4, 0xB#4, 0xC#4, 0xD#4, 0xF#4]) ∨
    (opOf w = 0xE ∧ nnOf w ∉ [0x9E#8, 0xA1#8]) ∨
    (opOf w = 0xF ∧ nnOf w ∉ [0x07#8, 0x0A#8, 0x15#8, 0x18#8, 0x1E#8, 0x29#8, 0x33#8, 0x55#8, 0x65#8])

/-! ## The cycle and the step -/

/-- R53: where both bytes exist the fetch reads the word most significant byte first, and bytes the program has stored
at `pc` are read in that order too. -/
def Obligations.FetchReadsTheHighByteFirst : Prop :=
  ∀ s : State, s.pc.toNat ≤ 0xFFE →
    (∃ w, s.fetch = .ok w ∧
      w.toNat = (s.mem.read s.pc.toNat).toNat * 256 + (s.mem.read (s.pc.toNat + 1)).toNat ∧
      ∀ b, b < 8 → w.getLsbD (8 + b) = (s.mem.read s.pc.toNat).getLsbD b ∧
        w.getLsbD b = (s.mem.read (s.pc.toNat + 1)).getLsbD b) ∧
    ∀ hi lo : Byte, s.mem.wf = true →
      ∃ w, (s.setMem (s.mem.writeBytes s.pc.toNat [hi, lo])).fetch = .ok w ∧
        w.toNat = hi.toNat * 256 + lo.toNat

/-- R78: when the machine runs and the bytes at `pc` decode to an instruction, the step is `exec` of it at that state;
what the model's step adds (R204, R212; log entry 2) is `endCycle`. Once halted the tick is over without a timer step;
after the last cycle both timers count down and the tick is over; after any other cycle one fewer is left; nothing else
differs. -/
def Obligations.StepRunsDecodedInstruction : Prop :=
  (∀ (s : State) (i : Instr), s.halted = false → s.pc.toNat ≤ 0xFFE → i.WellFormed →
    decode (s.mem.readBytes s.pc.toNat 2) = .ok (i, []) →
    step s =
      match exec i s with
      | .next t => .next (endCycle s.budget t)
      | .fault r => .fault r
      | .refused r => .refused r) ∧
  ∀ (s : State) (n : Nat), s.budget = (if s.tickLeft = 0 then s.cfg.cyclesPerTick else s.tickLeft) ∧
    (s.halted = true → endCycle n s = { s with tickLeft := 0 }) ∧
    (s.halted = false → n ≤ 1 → endCycle n s = { s with
      tickLeft := 0, dt := BitVec.ofNat 8 (s.dt.toNat - 1), st := BitVec.ofNat 8 (s.st.toNat - 1) }) ∧
    (s.halted = false → 1 < n → endCycle n s = { s with tickLeft := n - 1 })

/-- R55, R78, R82, R201 (decisions D4, D7): the two fatal conditions of the cycle itself. With `pc` above 0xFFE the fetch
takes MemOutOfRange with the lower of `pc`, `pc + 1` that is above 0xFFF, and no word is recorded; an unknown word takes
UnknownOpcode, with the word as info and as the recorded word. The step ends halted the same way, its tick over. -/
def Obligations.CycleFatalConditions : Prop :=
  (∀ s : State, s.halted = false → 0xFFE < s.pc.toNat →
    ∃ t, cycle s = .next t ∧
      TakesFatal s t .memOutOfRange (if s.pc.toNat = 0xFFF then 0x1000 else s.pc.toNat) none ∧
      step s = .next { t with tickLeft := 0 }) ∧
  ∀ (s : State) (w : Word), s.halted = false → s.pc.toNat ≤ 0xFFE →
    s.mem.readBytes s.pc.toNat 2 = bytesOfWord w → decodeWord w = .error (.unknownOpcode w) →
    ∃ t, cycle s = .next t ∧ TakesFatal s t .unknownOpcode w.toNat (some w) ∧
      step s = .next { t with tickLeft := 0 }

/-- R204, R205 (decision D4): once halted the machine changes nothing, over any number of steps, in a cycle and in a
tick. -/
def Obligations.HaltedMachineStays : Prop :=
  ∀ (s : State) (k : Nat), s.halted = true →
    Sys2Proof.core.run k s = .next s ∧ cycles k s = .next s ∧ tick s = .next s

/-! ## Fatal conditions -/

/-- R204, R206 (decision D4): a fatal condition of a handler is precise. The instruction makes none of its writes: the
halt latch and the record, with the `pc` and the word of the instruction, are all that differs. -/
def Obligations.HandlerFatalIsPrecise : Prop :=
  ∀ (i : Instr) (s t : State), s.halted = false → exec i s = .next t → t.halted = true →
    ∃ c n, TakesFatal s t c n (some (encodeWord i))

/-- R200: the instructions it does not list never raise anything: they answer a next state with the halt latch and the
record as they were. -/
def Obligations.OtherInstructionsNeverFault : Prop :=
  ∀ (i : Instr) (s : State), i.mayFault = false →
    ∃ t, exec i s = .next t ∧ t.halted = s.halted ∧ t.fault = s.fault

/-- R101 (decision D3): SYS always takes UnknownOpcode with its own word, and nothing else changes. -/
def Obligations.SysTakesUnknownOpcode : Prop :=
  (∀ w : Word, w &&& 0xF000 = 0x0000 → nnOf w ≠ 0xE0 → nnOf w ≠ 0xEE → decodeWord w = .ok (.sys (nnnOf w))) ∧
  ∀ (nnn : Addr) (s : State), ∃ t, exec (.sys nnn) s = .next t ∧
    TakesFatal s t .unknownOpcode nnn.toNat (some (nnn.setWidth 16))

/-- R102, R104, R202 (decision D5), R151, R152, R203 (decision D11): CALL on a full stack, RET on an empty one, SKP and
SKNP on a register value above 15 take their fatal conditions before any write. -/
def Obligations.StackAndKeyBoundsAreFatal : Prop :=
  (∀ (nnn : Addr) (s : State), 16 ≤ s.sp.toNat → ∃ t, exec (.call nnn) s = .next t ∧
    TakesFatal s t .stackOverflow s.sp.toNat (some (encodeWord (.call nnn)))) ∧
  (∀ (ign : Nibble) (s : State), s.sp.toNat = 0 → ∃ t, exec (.ret ign) s = .next t ∧
    TakesFatal s t .stackUnderflow 0 (some (encodeWord (.ret ign)))) ∧
  ∀ (x : Nibble) (s : State), 15 < (s.getV x).toNat →
    (∃ t, exec (.skp x) s = .next t ∧
      TakesFatal s t .keyIndexOutOfRange (s.getV x).toNat (some (encodeWord (.skp x)))) ∧
    ∃ t, exec (.sknp x) s = .next t ∧
      TakesFatal s t .keyIndexOutOfRange (s.getV x).toNat (some (encodeWord (.sknp x)))

/-- R55, R142, R164, R165 (decision D7): each memory instruction whose addresses do not all exist takes MemOutOfRange
with the least of them above 0xFFF, before any write. -/
def Obligations.MemoryRangeIsFatal : Prop :=
  ∀ (x y n : Nibble) (s : State),
    (n ≠ 0 → 0xFFF < s.i.toNat + (n.toNat - 1) → ∃ t, exec (.drw x y n) s = .next t ∧
      TakesFatal s t .memOutOfRange (max s.i.toNat 0x1000) (some (encodeWord (.drw x y n)))) ∧
    (0xFFF < s.i.toNat + 2 → ∃ t, exec (.ldB x) s = .next t ∧
      TakesFatal s t .memOutOfRange (max s.i.toNat 0x1000) (some (encodeWord (.ldB x)))) ∧
    (0xFFF < s.i.toNat + x.toNat →
      (∃ t, exec (.storeRegs x) s = .next t ∧
        TakesFatal s t .memOutOfRange (max s.i.toNat 0x1000) (some (encodeWord (.storeRegs x)))) ∧
      ∃ t, exec (.loadRegs x) s = .next t ∧
        TakesFatal s t .memOutOfRange (max s.i.toNat 0x1000) (some (encodeWord (.loadRegs x))))

/-- The model's one stop outside the machine (log entry 3): RET with `sp` above 16, a state no run reaches, and no other
instruction in any state. -/
def Obligations.OnlyRetAboveSixteenStops : Prop :=
  ∀ (i : Instr) (s : State), (∃ t, exec i s = .next t) ∨
    ((∃ ign, i = .ret ign) ∧ 16 < s.sp.toNat ∧ exec i s = .fault .stackIndexOutOfArray)

/-! ## Invariants -/

/-- R41: every step from a state that meets the invariant ends in one that meets it. -/
def Obligations.StepKeepsInvariant : Prop :=
  ∀ s t : State, s.Inv → step s = .next t → t.Inv

/-- R78: a step from a state that meets the invariant never stops: "A cycle has no other outcome: it does not stall, and
it does not end the run." -/
def Obligations.StepAnswersNextState : Prop :=
  ∀ s : State, s.Inv → ∃ t, step s = .next t

/-- The state after reset meets the invariant, under every choice of the parameters of R9 and in `State.reset`. -/
def Obligations.ResetMeetsInvariant : Prop := State.reset.Inv ∧ ∀ p : Params, (State.resetWith p).Inv

/-- R241: on a machine with any parameters, every transaction of the host on a state that meets the invariant ends in one
that meets it. -/
def Obligations.HostMovesKeepInvariant : Prop :=
  ∀ (p : Params) (m : HostMove) (s t : State) (r : HostReply), s.Inv → hostAct p m s = .next (t, r) → t.Inv

/-- R42, R230, R231: what reset leaves, whatever the parameters of R9, the font and the configuration. `pc`, `sp` and the
place of the font are the source's; the zeros are decision D12 of the spec. The transaction gives the same from a halted
state. `State.reset` is the reset under the default font and program end (decisions D13, D15; log entries 6, 7) and the
configuration the model names (log entry 5). -/
def Obligations.ResetLeavesTheStartState : Prop :=
  (∀ p : Params,
    let t := State.resetWith p
    t.pc.toNat = 0x200 ∧ t.sp.toNat = 0 ∧ (∀ x, t.getV x = 0) ∧ t.i = 0 ∧
    (∀ (k : Nat) (h : k < 16), t.stack[k] = 0 ∧ t.keys[k] = false) ∧
    t.mem.readBytes 0x050 80 = p.font ∧ (∀ a, a < 0x050 ∨ 0x0A0 ≤ a → t.mem.read a = 0) ∧
    t.dt = 0 ∧ t.st = 0 ∧ (∀ r c, t.fb.lit r c = false) ∧ t.await = false ∧ t.cfg = p.cfg ∧ t.halted = false ∧
    t.fault = none ∧
    ∀ s : State, s.tickLeft = 0 → hostAct p .reset s = .next ({ t with draws := s.draws }, .nothing)) ∧
  State.resetWith Params.standard = State.reset

/-- R29 (the model's canonical form): two canonical memories that read alike at every address are equal data. -/
def Obligations.CanonicalMemoryIsItsReads : Prop :=
  ∀ m m' : Memory, m.wf = true → m'.wf = true → (∀ a, m.read a = m'.read a) → m = m'

/-! ## Whole-machine rules -/

/-- R22, R120: an instruction changes only the registers it may write; `V[15]` only through a flag write or as the
destination. -/
def Obligations.RegistersChangeOnlyByTheirWriters : Prop :=
  ∀ (i : Instr) (s t : State) (k : Nibble), exec i s = .next t → i.writesV s.cfg k = false → t.getV k = s.getV k

/-- R24: only LD I, ADD I, LD F and, under `cfg.memory`, the bulk transfers change `I`. -/
def Obligations.IndexChangesOnlyByItsWriters : Prop :=
  ∀ (i : Instr) (s t : State), exec i s = .next t → i.writesI s.cfg = false → t.i = s.i

/-- R63: the only stores are those of LD B to `I` to `I + 2` and of LD [I], Vx to `I` to `I + x`. -/
def Obligations.MemoryChangesOnlyByTheTwoStores : Prop :=
  ∀ (i : Instr) (s t : State) (a : Nat), s.mem.wf = true → exec i s = .next t → t.mem.read a ≠ s.mem.read a →
    (∃ x, i = .ldB x ∧ s.i.toNat ≤ a ∧ a ≤ s.i.toNat + 2) ∨
    (∃ x, i = .storeRegs x ∧ s.i.toNat ≤ a ∧ a ≤ s.i.toNat + x.toNat)

/-- R26, R27, R30, R34, R36, R157: which instruction changes the stack, `sp`, the timers, the display and the await
flag. -/
def Obligations.OtherStateChangesOnlyByItsWriters : Prop :=
  ∀ (i : Instr) (s t : State), exec i s = .next t →
    (t.stack ≠ s.stack → ∃ nnn, i = .call nnn) ∧
    (t.sp ≠ s.sp → (∃ nnn, i = .call nnn) ∨ ∃ ign, i = .ret ign) ∧
    (t.dt ≠ s.dt → ∃ x, i = .ldDtVx x) ∧ (t.st ≠ s.st → ∃ x, i = .ldStVx x) ∧
    (t.fb ≠ s.fb → (∃ ign, i = .cls ign) ∨ ∃ x y n, i = .drw x y n) ∧
    (t.await ≠ s.await → ∃ x, i = .ldVxK x)

/-- R79: what an instruction that takes no fatal condition does to `pc`. JP, CALL, RET and JP V0 write it and nothing is
added; LD Vx, K leaves it while no key is pressed and advances by 2 once one is; the six skips advance by 2 or 4 and
look at no byte of memory; every other instruction advances by 2. -/
def Obligations.EachInstructionAdvancesAsListed : Prop :=
  ∀ (i : Instr) (s t : State), s.halted = false → exec i s = .next t → t.halted = false →
    match i with
    | .jp nnn | .call nnn => t.pc.toNat = nnn.toNat
    | .ret _ => some t.pc = s.stack[s.sp.toNat - 1]?
    | .jpV0 nnn => t.pc = offsetTarget s nnn
    | .ldVxK _ =>
      ((∀ (k : Nat) (h : k < 16), s.keys[k] = false) → Advanced s t 0) ∧
        ((∃ (k : Nat) (h : k < 16), s.keys[k] = true) → Advanced s t 2)
    | .seImm _ _ | .sneImm _ _ | .seReg _ _ _ | .sneReg _ _ _ | .skp _ | .sknp _ =>
      (Advanced s t 2 ∨ Advanced s t 4) ∧ ∀ m : Memory, exec i { s with mem := m } = .next { t with mem := m }
    | _ => Advanced s t 2

/-- R35, R37, R209: over any run the machine leaves the key flags and the configuration to the host. -/
def Obligations.RunKeepsKeysAndConfig : Prop :=
  ∀ (k : Nat) (s t : State), Sys2Proof.core.run k s = .next t → t.keys = s.keys ∧ t.cfg = s.cfg

/-! ## Control flow -/

/-- R103: JP. -/
def Obligations.JpGoesToItsAddress : Prop :=
  Encodes 0xF000 0x1000 (fun w => .jp (nnnOf w)) ∧
  ∀ (nnn : Addr) (s : State), ∃ t, exec (.jp nnn) s = .next t ∧ t.pc.toNat = nnn.toNat ∧ OnlyPc s t ∧
    (s.pc.toNat = nnn.toNat → t = s) ∧ (nnn.toNat = 0xFFF → t.fetch = .error 0x1000)

/-- R102 (decision D6): RET with an address on the stack restores it, `sp` counts down, and the stack entries keep their
values. -/
def Obligations.RetRestoresTheTopEntry : Prop :=
  Encodes 0xF0FF 0x00EE (fun w => .ret (xOf w)) ∧
  ∀ (ign : Nibble) (s : State), 1 ≤ s.sp.toNat → s.sp.toNat ≤ 16 → ∃ t, exec (.ret ign) s = .next t ∧
    t.sp.toNat = s.sp.toNat - 1 ∧ some t.pc = s.stack[s.sp.toNat - 1]? ∧
    t = { s with sp := t.sp, pc := t.pc } ∧ SameBytes s t

/-- R104 (decision D6): CALL with room on the stack writes `pc + 2` at `sp`, counts `sp` up and goes to the address; the
other stack entries keep their values. -/
def Obligations.CallPushesTheNextAddress : Prop :=
  Encodes 0xF000 0x2000 (fun w => .call (nnnOf w)) ∧
  ∀ (nnn : Addr) (s : State), s.sp.toNat < 16 → ∃ t, exec (.call nnn) s = .next t ∧
    t.pc.toNat = nnn.toNat ∧ t.sp.toNat = s.sp.toNat + 1 ∧
    (∀ (k : Nat) (h : k < 16), (t.stack[k]).toNat =
      if k = s.sp.toNat then (s.pc.toNat + 2) % 65536 else (s.stack[k]).toNat) ∧
    t = { s with sp := t.sp, pc := t.pc, stack := t.stack } ∧ SameBytes s t

/-- R102, R104 (decision D6): the RET that finds the stack and `sp` as a CALL left them goes on after the CALL, with
`sp` as it was before. -/
def Obligations.RetAfterCallGoesOnBehindIt : Prop :=
  ∀ (nnn : Addr) (ign : Nibble) (s : State), s.sp.toNat < 16 → ∃ t, exec (.call nnn) s = .next t ∧
    ∀ u : State, u.stack = t.stack → u.sp = t.sp →
      exec (.ret ign) u = .next { u with sp := s.sp, pc := s.pc + 2 }

/-- R105 (decision D23, general knowledge): JP V0 adds the selected register to all 12 bits of the address. -/
def Obligations.JpV0AddsTheSelectedRegister : Prop :=
  Encodes 0xF000 0xB000 (fun w => .jpV0 (nnnOf w)) ∧
  ∀ (nnn : Addr) (s : State), ∃ t, exec (.jpV0 nnn) s = .next t ∧ OnlyPc s t ∧
    (s.cfg.jumping = true → t.pc.toNat = nnn.toNat + (s.getV (nnn.extractLsb' 8 4)).toNat) ∧
    (s.cfg.jumping = false → t.pc.toNat = nnn.toNat + (s.getV 0).toNat)

/-! ## Skips -/

/-- R111 to R114 (their four relations are general knowledge, R110): the compare-and-skip instructions, the register
forms for every value of the ignored nibble. -/
def Obligations.CompareSkips : Prop :=
  Encodes 0xF000 0x3000 (fun w => .seImm (xOf w) (nnOf w)) ∧
  Encodes 0xF000 0x4000 (fun w => .sneImm (xOf w) (nnOf w)) ∧
  Encodes 0xF000 0x5000 (fun w => .seReg (xOf w) (yOf w) (nOf w)) ∧
  Encodes 0xF000 0x9000 (fun w => .sneReg (xOf w) (yOf w) (nOf w)) ∧
  ∀ (x y ign : Nibble) (nn : Byte) (s : State),
    (∃ t, exec (.seImm x nn) s = .next t ∧ OnlyPc s t ∧ Advanced s t (if s.getV x = nn then 4 else 2)) ∧
    (∃ t, exec (.sneImm x nn) s = .next t ∧ OnlyPc s t ∧ Advanced s t (if s.getV x ≠ nn then 4 else 2)) ∧
    (∃ t, exec (.seReg x y ign) s = .next t ∧ OnlyPc s t ∧ Advanced s t (if s.getV x = s.getV y then 4 else 2)) ∧
    ∃ t, exec (.sneReg x y ign) s = .next t ∧ OnlyPc s t ∧ Advanced s t (if s.getV x ≠ s.getV y then 4 else 2)

/-! ## Arithmetic and logic -/

/-- R121, R131: LD Vx, byte and LD Vx, Vy. -/
def Obligations.LoadsOfARegister : Prop :=
  Encodes 0xF000 0x6000 (fun w => .ldImm (xOf w) (nnOf w)) ∧
  Encodes 0xF00F 0x8000 (fun w => .ldReg (xOf w) (yOf w)) ∧
  ∀ (x y : Nibble) (nn : Byte) (s : State),
    (∃ t, exec (.ldImm x nn) s = .next t ∧ OnlyRegsPc s t ∧ Advanced s t 2 ∧
      ∀ k, t.getV k = if k = x then nn else s.getV k) ∧
    ∃ t, exec (.ldReg x y) s = .next t ∧ OnlyRegsPc s t ∧ Advanced s t 2 ∧
      ∀ k, t.getV k = if k = x then s.getV y else s.getV k

/-- R122 (decision D26): ADD Vx, byte wraps and writes no flag: `V[15]` changes only as the destination. -/
def Obligations.AddImmediateWrapsWithoutFlag : Prop :=
  Encodes 0xF000 0x7000 (fun w => .addImm (xOf w) (nnOf w)) ∧
  ∀ (x : Nibble) (nn : Byte) (s : State), ∃ t, exec (.addImm x nn) s = .next t ∧ OnlyRegsPc s t ∧ Advanced s t 2 ∧
    ∀ k, (t.getV k).toNat = if k = x then ((s.getV x).toNat + nn.toNat) % 256 else (s.getV k).toNat

/-- R123, R124, R125: OR, AND, XOR bit by bit, and the flag register under `cfg.vf_reset`, cleared last. -/
def Obligations.LogicAndTheFlagQuirk : Prop :=
  Encodes 0xF00F 0x8001 (fun w => .orReg (xOf w) (yOf w)) ∧
  Encodes 0xF00F 0x8002 (fun w => .andReg (xOf w) (yOf w)) ∧
  Encodes 0xF00F 0x8003 (fun w => .xorReg (xOf w) (yOf w)) ∧
  ∀ (x y : Nibble) (s : State),
    (∃ t, exec (.orReg x y) s = .next t ∧ OnlyRegsPc s t ∧ Advanced s t 2 ∧
      ∀ k b, b < 8 → (t.getV k).getLsbD b =
        if k = 15 ∧ s.cfg.vfReset = true then false
        else if k = x then ((s.getV x).getLsbD b || (s.getV y).getLsbD b) else (s.getV k).getLsbD b) ∧
    (∃ t, exec (.andReg x y) s = .next t ∧ OnlyRegsPc s t ∧ Advanced s t 2 ∧
      ∀ k b, b < 8 → (t.getV k).getLsbD b =
        if k = 15 ∧ s.cfg.vfReset = true then false
        else if k = x then ((s.getV x).getLsbD b && (s.getV y).getLsbD b) else (s.getV k).getLsbD b) ∧
    ∃ t, exec (.xorReg x y) s = .next t ∧ OnlyRegsPc s t ∧ Advanced s t 2 ∧
      ∀ k b, b < 8 → (t.getV k).getLsbD b =
        if k = 15 ∧ s.cfg.vfReset = true then false
        else if k = x then ((s.getV x).getLsbD b ^^ (s.getV y).getLsbD b) else (s.getV k).getLsbD b

/-- R126, R134 (decision D8 for `x = 15`): ADD Vx, Vy, the carry written last. -/
def Obligations.AddSetsTheCarry : Prop :=
  Encodes 0xF00F 0x8004 (fun w => .addReg (xOf w) (yOf w)) ∧
  ∀ (x y : Nibble) (s : State), ∃ t, exec (.addReg x y) s = .next t ∧ OnlyRegsPc s t ∧ Advanced s t 2 ∧
    ∀ k, (t.getV k).toNat =
      if k = 15 then (if (s.getV x).toNat + (s.getV y).toNat > 255 then 1 else 0)
      else if k = x then ((s.getV x).toNat + (s.getV y).toNat) % 256 else (s.getV k).toNat

/-- R127, R129: SUB and SUBN, the no-borrow flag written last. -/
def Obligations.SubtractionsSetNoBorrow : Prop :=
  Encodes 0xF00F 0x8005 (fun w => .sub (xOf w) (yOf w)) ∧
  Encodes 0xF00F 0x8007 (fun w => .subn (xOf w) (yOf w)) ∧
  ∀ (x y : Nibble) (s : State),
    (∃ t, exec (.sub x y) s = .next t ∧ OnlyRegsPc s t ∧ Advanced s t 2 ∧
      ∀ k, (t.getV k).toNat =
        if k = 15 then (if (s.getV x).toNat ≥ (s.getV y).toNat then 1 else 0)
        else if k = x then
          (if (s.getV x).toNat ≥ (s.getV y).toNat then (s.getV x).toNat - (s.getV y).toNat
           else (s.getV x).toNat + 256 - (s.getV y).toNat)
        else (s.getV k).toNat) ∧
    ∃ t, exec (.subn x y) s = .next t ∧ OnlyRegsPc s t ∧ Advanced s t 2 ∧
      ∀ k, (t.getV k).toNat =
        if k = 15 then (if (s.getV y).toNat ≥ (s.getV x).toNat then 1 else 0)
        else if k = x then
          (if (s.getV y).toNat ≥ (s.getV x).toNat then (s.getV y).toNat - (s.getV x).toNat
           else (s.getV y).toNat + 256 - (s.getV x).toNat)
        else (s.getV k).toNat

/-- R128, R130 (decisions D8, D9): SHR and SHL of the register `cfg.shifting` selects; the bit shifted out is written
last. -/
def Obligations.ShiftsSetTheBitShiftedOut : Prop :=
  Encodes 0xF00F 0x8006 (fun w => .shr (xOf w) (yOf w)) ∧
  Encodes 0xF00F 0x800E (fun w => .shl (xOf w) (yOf w)) ∧
  ∀ (x y : Nibble) (s : State),
    let src := if s.cfg.shifting then (s.getV x).toNat else (s.getV y).toNat
    (∃ t, exec (.shr x y) s = .next t ∧ OnlyRegsPc s t ∧ Advanced s t 2 ∧
      ∀ k, (t.getV k).toNat = if k = 15 then src % 2 else if k = x then src / 2 else (s.getV k).toNat) ∧
    ∃ t, exec (.shl x y) s = .next t ∧ OnlyRegsPc s t ∧ Advanced s t 2 ∧
      ∀ k, (t.getV k).toNat = if k = 15 then src / 128 else if k = x then src * 2 % 256 else (s.getV k).toNat

/-- R132 (decision D18): RND takes the next draw, whatever it is (log entry 1), AND the mask; the draw is used up. -/
def Obligations.RndIsADrawUnderTheMask : Prop :=
  Encodes 0xF000 0xC000 (fun w => .rnd (xOf w) (nnOf w)) ∧
  ∀ (x : Nibble) (nn : Byte) (s : State), ∃ t, exec (.rnd x nn) s = .next t ∧ Advanced s t 2 ∧
    (∀ k, t.getV k = if k = x then Config.rand8 s.draws &&& nn else s.getV k) ∧ t.getV x &&& ~~~nn = 0 ∧
    t.draws = s.draws + 1 ∧ t = { s with v := t.v, pc := t.pc, draws := t.draws } ∧ SameBytes s t

/-! ## Display -/

/-- R141: CLS. -/
def Obligations.ClsClearsEveryCell : Prop :=
  Encodes 0xF0FF 0x00E0 (fun w => .cls (xOf w)) ∧
  ∀ (ign : Nibble) (s : State), ∃ t, exec (.cls ign) s = .next t ∧ Advanced s t 2 ∧
    (∀ r c, r < 32 → c < 64 → t.fb.lit r c = false) ∧ t = { s with fb := t.fb, pc := t.pc } ∧ SameBytes s t

/-- R142 (decisions D8, D10): DRW with its rows in memory, or of no rows. A cell is turned over exactly where a 1 bit of
the sprite lies on it, and the flag, written last, says whether one of those was lit. -/
def Obligations.DrwBlitsTheSprite : Prop :=
  Encodes 0xF000 0xD000 (fun w => .drw (xOf w) (yOf w) (nOf w)) ∧
  ∀ (x y n : Nibble) (s : State), n = 0 ∨ s.i.toNat + (n.toNat - 1) ≤ 0xFFF →
    ∃ t, exec (.drw x y n) s = .next t ∧ Advanced s t 2 ∧
      (∀ r c, r < 32 → c < 64 →
        (t.fb.lit r c = true ↔ (SpriteCovers s x y n r c ↔ s.fb.lit r c = false))) ∧
      ((∃ r c, SpriteCovers s x y n r c ∧ s.fb.lit r c = true) → t.getV 15 = 1) ∧
      ((¬ ∃ r c, SpriteCovers s x y n r c ∧ s.fb.lit r c = true) → t.getV 15 = 0) ∧
      (∀ k, k ≠ 15 → t.getV k = s.getV k) ∧
      t = { s with v := t.v, fb := t.fb, pc := t.pc } ∧ SameBytes s t

/-- R143 (from R142, decision D10): drawing the same sprite twice gives the display back, and the second flag is 1 exactly
when the first draw turned a cell on, wherever the coordinates are the same after their reduction. -/
def Obligations.DrwTwiceRestoresTheDisplay : Prop :=
  ∀ (x y n : Nibble) (s : State), n = 0 ∨ s.i.toNat + (n.toNat - 1) ≤ 0xFFF →
    ∃ t, exec (.drw x y n) s = .next t ∧
      ((t.getV x).toNat % 64 = (s.getV x).toNat % 64 → (t.getV y).toNat % 32 = (s.getV y).toNat % 32 →
        ∃ u, exec (.drw x y n) t = .next u ∧ u.fb = s.fb ∧
          (u.getV 15 = 1 ↔ ∃ r c, s.fb.lit r c = false ∧ t.fb.lit r c = true))

/-! ## Keypad and timers -/

/-- R151, R152: SKP and SKNP on a register value that is a key code. -/
def Obligations.KeySkips : Prop :=
  Encodes 0xF0FF 0xE09E (fun w => .skp (xOf w)) ∧ Encodes 0xF0FF 0xE0A1 (fun w => .sknp (xOf w)) ∧
  ∀ (x : Nibble) (s : State) (h : (s.getV x).toNat < 16),
    (∃ t, exec (.skp x) s = .next t ∧ OnlyPc s t ∧
      Advanced s t (if s.keys[(s.getV x).toNat]'h = true then 4 else 2)) ∧
    ∃ t, exec (.sknp x) s = .next t ∧ OnlyPc s t ∧
      Advanced s t (if s.keys[(s.getV x).toNat]'h = true then 2 else 4)

/-- R153: LD Vx, K stores the lowest pressed key and advances, or sets the await flag and stays. -/
def Obligations.WaitForKeyTakesTheLowest : Prop :=
  Encodes 0xF0FF 0xF00A (fun w => .ldVxK (xOf w)) ∧
  ∀ (x : Nibble) (s : State),
    (∀ (k : Nat) (h : k < 16), s.keys[k] = true → (∀ (j : Nat) (hj : j < k), s.keys[j] = false) →
      ∃ t, exec (.ldVxK x) s = .next t ∧ Advanced s t 2 ∧ t.await = false ∧
        (∀ r, (t.getV r).toNat = if r = x then k else (s.getV r).toNat) ∧
        t = { s with v := t.v, await := t.await, pc := t.pc } ∧ SameBytes s t) ∧
    ((∀ (k : Nat) (h : k < 16), s.keys[k] = false) →
      exec (.ldVxK x) s = .next { s with await := true })

/-- R153, R212, R213: a tick that starts at LD Vx, K with no key pressed spends all its cycles there: `pc` stays, `await`
is true, and the timers still count down once. -/
def Obligations.TickWithoutKeysStaysAtTheWait : Prop :=
  ∀ (x : Nibble) (s : State), s.halted = false → 1 ≤ s.cfg.cyclesPerTick → s.pc.toNat ≤ 0xFFE →
    decode (s.mem.readBytes s.pc.toNat 2) = .ok (.ldVxK x, []) →
    (∀ (k : Nat) (h : k < 16), s.keys[k] = false) →
    tick s = .next { s with
      await := true, dt := BitVec.ofNat 8 (s.dt.toNat - 1), st := BitVec.ofNat 8 (s.st.toNat - 1) }

/-- R154, R155, R156: the three timer transfers. -/
def Obligations.TimerTransfers : Prop :=
  Encodes 0xF0FF 0xF007 (fun w => .ldVxDt (xOf w)) ∧ Encodes 0xF0FF 0xF015 (fun w => .ldDtVx (xOf w)) ∧
  Encodes 0xF0FF 0xF018 (fun w => .ldStVx (xOf w)) ∧
  ∀ (x : Nibble) (s : State),
    (∃ t, exec (.ldVxDt x) s = .next t ∧ OnlyRegsPc s t ∧ Advanced s t 2 ∧
      ∀ k, t.getV k = if k = x then s.dt else s.getV k) ∧
    (∃ t, exec (.ldDtVx x) s = .next t ∧ Advanced s t 2 ∧ t.dt = s.getV x ∧
      t = { s with dt := t.dt, pc := t.pc } ∧ SameBytes s t) ∧
    ∃ t, exec (.ldStVx x) s = .next t ∧ Advanced s t 2 ∧ t.st = s.getV x ∧
      t = { s with st := t.st, pc := t.pc } ∧ SameBytes s t

/-! ## Address register and memory -/

/-- R161 (decision D22, general knowledge), R162, R163: LD I, addr; ADD I, Vx mod 65536 with no flag; LD F, Vx of the low
nibble. -/
def Obligations.IndexRegisterWrites : Prop :=
  Encodes 0xF000 0xA000 (fun w => .ldI (nnnOf w)) ∧ Encodes 0xF0FF 0xF01E (fun w => .addI (xOf w)) ∧
  Encodes 0xF0FF 0xF029 (fun w => .ldF (xOf w)) ∧
  ∀ (x : Nibble) (nnn : Addr) (s : State),
    (∃ t, exec (.ldI nnn) s = .next t ∧ OnlyIPc s t ∧ Advanced s t 2 ∧ t.i.toNat = nnn.toNat) ∧
    (∃ t, exec (.addI x) s = .next t ∧ OnlyIPc s t ∧ Advanced s t 2 ∧
      t.i.toNat = (s.i.toNat + (s.getV x).toNat) % 65536) ∧
    ∃ t, exec (.ldF x) s = .next t ∧ OnlyIPc s t ∧ Advanced s t 2 ∧
      t.i.toNat = 0x050 + 5 * ((s.getV x).toNat % 16)

/-- R164 (decision D27 for `I`): LD B stores the three decimal digits at `I`, `I + 1`, `I + 2` and nothing else. -/
def Obligations.LdBStoresThreeDigits : Prop :=
  Encodes 0xF0FF 0xF033 (fun w => .ldB (xOf w)) ∧
  ∀ (x : Nibble) (s : State), s.mem.wf = true → s.i.toNat + 2 ≤ 0xFFF →
    ∃ t, exec (.ldB x) s = .next t ∧ Advanced s t 2 ∧ t = { s with mem := t.mem, pc := t.pc } ∧
      (t.mem.read s.i.toNat).toNat = (s.getV x).toNat / 100 ∧
      (t.mem.read (s.i.toNat + 1)).toNat = (s.getV x).toNat / 10 % 10 ∧
      (t.mem.read (s.i.toNat + 2)).toNat = (s.getV x).toNat % 10 ∧
      ∀ a, a < s.i.toNat ∨ s.i.toNat + 2 < a → t.mem.read a = s.mem.read a

/-- R165, R166 (decision D7 for the range): LD [I], Vx stores `V[0..x]` and nothing else; `I` moves only under
`cfg.memory`. -/
def Obligations.BulkStore : Prop :=
  Encodes 0xF0FF 0xF055 (fun w => .storeRegs (xOf w)) ∧
  ∀ (x : Nibble) (s : State), s.mem.wf = true → s.i.toNat + x.toNat ≤ 0xFFF →
    ∃ t, exec (.storeRegs x) s = .next t ∧ Advanced s t 2 ∧ t = { s with mem := t.mem, i := t.i, pc := t.pc } ∧
      t.i.toNat = (if s.cfg.memory then s.i.toNat + x.toNat + 1 else s.i.toNat) ∧
      (∀ k : Nibble, k.toNat ≤ x.toNat → t.mem.read (s.i.toNat + k.toNat) = s.getV k) ∧
      ∀ a, a < s.i.toNat ∨ s.i.toNat + x.toNat < a → t.mem.read a = s.mem.read a

/-- R165, R167 (decision D7 for the range): LD Vx, [I] loads `V[0..x]`; `I` moves only under `cfg.memory`. -/
def Obligations.BulkLoad : Prop :=
  Encodes 0xF0FF 0xF065 (fun w => .loadRegs (xOf w)) ∧
  ∀ (x : Nibble) (s : State), s.i.toNat + x.toNat ≤ 0xFFF →
    ∃ t, exec (.loadRegs x) s = .next t ∧ Advanced s t 2 ∧ t = { s with v := t.v, i := t.i, pc := t.pc } ∧
      t.i.toNat = (if s.cfg.memory then s.i.toNat + x.toNat + 1 else s.i.toNat) ∧
      (∀ k : Nibble, t.getV k = if k.toNat ≤ x.toNat then s.mem.read (s.i.toNat + k.toNat) else s.getV k) ∧
      SameBytes s t

/-- R165 to R167: what LD [I], Vx stored, LD Vx, [I] from the same `I` gives back, from any registers. -/
def Obligations.LoadAfterStoreGivesTheRegistersBack : Prop :=
  ∀ (x : Nibble) (s : State), s.mem.wf = true → s.i.toNat + x.toNat ≤ 0xFFF →
    ∃ t, exec (.storeRegs x) s = .next t ∧
      ∀ u : State, u.mem = t.mem → u.i = s.i →
        ∃ r, exec (.loadRegs x) u = .next r ∧ ∀ k : Nibble, k.toNat ≤ x.toNat → r.getV k = s.getV k

/-! ## The tick and the host -/

/-- R213: the timer step takes 1 from each timer, never below 0, over any number of steps, and changes nothing else. -/
def Obligations.TimersCountDownToZero : Prop :=
  ∀ (k : Nat) (s : State), ((timerStep^[k]) s).dt.toNat = s.dt.toNat - k ∧
    ((timerStep^[k]) s).st.toNat = s.st.toNat - k ∧
    (timerStep^[k]) s = { s with dt := ((timerStep^[k]) s).dt, st := ((timerStep^[k]) s).st }

/-- R212 (and R204, decision D4): a tick of a running machine is all its cycles and then one timer step, or it ends
halted after the cycle that raised the fatal condition, with no timer step. -/
def Obligations.TickIsCyclesThenOneTimerStep : Prop :=
  ∀ s t : State, s.halted = false → tick s = .next t →
    (t.halted = false ∧ ∃ u, cycles s.cfg.cyclesPerTick s = .next u ∧ u.halted = false ∧ t = timerStep u) ∨
    (t.halted = true ∧ ∃ k u, k < s.cfg.cyclesPerTick ∧ cycles k s = .next u ∧ u.halted = false ∧
      cycle u = .next t)

/-- R212 and the model's step (log entry 2): between ticks, running the step once for each cycle of the budget is the
tick as R212 writes it. -/
def Obligations.TickIsARunOfSteps : Prop :=
  ∀ s : State, s.tickLeft = 0 → 1 ≤ s.cfg.cyclesPerTick →
    Sys2Proof.core.run s.cfg.cyclesPerTick s = tick s

/-- R236 (decision D17): `load` within the capacity of the machine writes those bytes at 0x200 and nothing else; a longer
one is rejected and changes nothing. The default capacity (decision D13, log entry 7) is 3584. -/
def Obligations.LoadWritesTheProgramOrNothing : Prop :=
  (∀ (p : Params) (s : State) (bytes : List Byte), s.tickLeft = 0 →
    (s.mem.wf = true → bytes.length ≤ p.programEnd - 0x200 →
      ∃ t, hostAct p (.load bytes) s = .next (t, .loadOk) ∧ t = { s with mem := t.mem } ∧
        (∀ (k : Nat) (h : k < bytes.length), t.mem.read (0x200 + k) = bytes[k]) ∧
        ∀ a, a < 0x200 ∨ 0x200 + bytes.length ≤ a → t.mem.read a = s.mem.read a) ∧
    (p.programEnd - 0x200 < bytes.length → hostAct p (.load bytes) s = .next (s, .loadRejected))) ∧
  Params.standard.programEnd - 0x200 = 3584

/-- R238: `set_key` writes the one flag and changes nothing else, `await` and `pc` included; a waiting LD Vx, K sees the
key when it next executes. -/
def Obligations.SetKeyChangesOneKey : Prop :=
  ∀ (q : Params) (k : Nibble) (p : Bool) (s : State), s.tickLeft = 0 →
    ∃ t, hostAct q (.setKey k p) s = .next (t, .nothing) ∧ t = { s with keys := t.keys } ∧
      (∀ (j : Nat) (h : j < 16), t.keys[j] = if j = k.toNat then p else s.keys[j]) ∧
      ∀ x : Nibble, p = true → (∀ (j : Nat) (h : j < 16), s.keys[j] = false) →
        ∃ u, exec (.ldVxK x) t = .next u ∧ (u.getV x).toNat = k.toNat ∧ u.await = false ∧ Advanced t u 2

/-- R239 (decision D24): `set_config` writes the fields it names, the budget clamped to at least 1, and nothing else. That a
request may leave a field out, which then stays, is the model's choice (log entry 29, DEDUCED: R241's table has the host
send four booleans and one integer); a request that names all five is the table's. -/
def Obligations.SetConfigClampsTheBudget : Prop :=
  ∀ (p : Params) (q : ConfigRequest) (s : State), s.tickLeft = 0 →
    ∃ t, hostAct p (.setConfig q) s = .next (t, .nothing) ∧ t = { s with cfg := t.cfg } ∧
      t.cfg.vfReset = q.vfReset.getD s.cfg.vfReset ∧ t.cfg.memory = q.memory.getD s.cfg.memory ∧
      t.cfg.shifting = q.shifting.getD s.cfg.shifting ∧ t.cfg.jumping = q.jumping.getD s.cfg.jumping ∧
      (q.cyclesPerTick = none → t.cfg.cyclesPerTick = s.cfg.cyclesPerTick) ∧
      ∀ n : Int, q.cyclesPerTick = some n → (t.cfg.cyclesPerTick : Int) = if n < 1 then 1 else n

/-- R240, R241 (decision D1): during a tick the host has no move; between ticks its reads change nothing, and the dump
shows the display grid, the registers, the timers and the halt. That `tick` returns `halted` is the model's choice (log
entry 32). -/
def Obligations.HostMovesOnlyBetweenTicks : Prop :=
  ∀ p : Params,
    (∀ (m : HostMove) (s : State), s.tickLeft ≠ 0 → hostAct p m s = .refused .hostDuringTick) ∧
    ∀ s : State, s.tickLeft = 0 → hostAct p .readDisplay s = .next (s, .display s.fb) ∧
      (∃ d, hostAct p .readDump s = .next (s, .dump d) ∧ d.fb = s.fb ∧ d.v = s.v ∧ d.i = s.i ∧ d.pc = s.pc ∧
        d.sp = s.sp ∧ d.dt = s.dt ∧ d.st = s.st ∧ d.halted = s.halted ∧ d.fault = s.fault) ∧
      ∀ t, tick s = .next t → hostAct p .tick s = .next (t, .ticked t.halted)
end

