-- ==== Sys2Proof/Laws/Memory.lean ====
section
/-! SUPPORT. The laws of memory: what a read gives after a write, and that every memory operation keeps the canonical
form. -/

namespace Sys2Proof.Machine

@[simp] theorem Memory.read_nil (a : Nat) : Memory.read [] a = unlistedByte a := rfl

theorem Memory.read_cons (b : Nat) (w : Byte) (rest : Memory) (a : Nat) :
    Memory.read ((b, w) :: rest) a = if a = b then w else Memory.read rest a := rfl

@[simp] theorem Memory.wfFrom_nil (lo : Nat) : Memory.wfFrom lo [] = true := rfl

theorem Memory.wfFrom_cons (lo b : Nat) (w : Byte) (rest : Memory) :
    Memory.wfFrom lo ((b, w) :: rest) = true ↔
      lo ≤ b ∧ b < memSize ∧ w ≠ unlistedByte b ∧ Memory.wfFrom (b + 1) rest = true := by
  simp [Memory.wfFrom, and_assoc]

/-- A lower bound may be lowered. -/
theorem Memory.wfFrom_mono {lo lo' : Nat} (h : lo' ≤ lo) (m : Memory) :
    Memory.wfFrom lo m = true → Memory.wfFrom lo' m = true := by
  cases m with
  | nil => simp
  | cons c rest =>
    obtain ⟨b, w⟩ := c
    simp only [Memory.wfFrom_cons]
    rintro ⟨h1, h2, h3, h4⟩
    exact ⟨by omega, h2, h3, h4⟩

/-- Below its first address a canonical memory reads as its reset contents. -/
theorem Memory.read_below {lo a : Nat} (m : Memory) (hm : Memory.wfFrom lo m = true) (ha : a < lo) :
    m.read a = unlistedByte a := by
  induction m generalizing lo with
  | nil => simp
  | cons c rest ih =>
    obtain ⟨b, w⟩ := c
    obtain ⟨h1, -, -, h4⟩ := (Memory.wfFrom_cons _ _ _ _).1 hm
    rw [Memory.read_cons, if_neg (by omega)]
    exact ih h4 (by omega)

/-- A write inside the memory keeps the canonical form. -/
theorem Memory.write_wfFrom {lo a : Nat} (m : Memory) (v : Byte) (hm : Memory.wfFrom lo m = true) (hlo : lo ≤ a)
    (ha : a < memSize) : Memory.wfFrom lo (m.write a v) = true := by
  induction m generalizing lo with
  | nil =>
    unfold Memory.write
    split
    · simp
    · next h => exact (Memory.wfFrom_cons _ _ _ _).2 ⟨hlo, ha, h, rfl⟩
  | cons c rest ih =>
    obtain ⟨b, w⟩ := c
    obtain ⟨h1, h2, h3, h4⟩ := (Memory.wfFrom_cons _ _ _ _).1 hm
    unfold Memory.write
    split_ifs with hab hv he hv
    · exact hm
    · exact (Memory.wfFrom_cons _ _ _ _).2
        ⟨hlo, ha, hv, (Memory.wfFrom_cons _ _ _ _).2 ⟨by omega, h2, h3, h4⟩⟩
    · exact Memory.wfFrom_mono (by omega) rest h4
    · subst he; exact (Memory.wfFrom_cons _ _ _ _).2 ⟨h1, h2, hv, h4⟩
    · exact (Memory.wfFrom_cons _ _ _ _).2 ⟨h1, h2, h3, ih h4 (by omega)⟩

theorem Memory.write_wf (m : Memory) (a : Nat) (v : Byte) (hm : m.wf = true) (ha : a < memSize) :
    (m.write a v).wf = true := Memory.write_wfFrom m v hm (Nat.zero_le a) ha

/-- What a read gives after a write to a canonical memory. -/
theorem Memory.read_write_wfFrom {lo : Nat} (m : Memory) (a b : Nat) (v : Byte) (hm : Memory.wfFrom lo m = true) :
    (m.write a v).read b = if b = a then v else m.read b := by
  induction m generalizing lo with
  | nil =>
    unfold Memory.write
    split_ifs with hv hb hb <;> simp_all [Memory.read_cons]
  | cons c rest ih =>
    obtain ⟨d, w⟩ := c
    obtain ⟨-, -, -, h4⟩ := (Memory.wfFrom_cons _ _ _ _).1 hm
    have hlow := fun x => Memory.read_below (a := x) rest h4
    unfold Memory.write
    by_cases had : a < d
    · rw [if_pos had]
      by_cases hv : v = unlistedByte a
      · rw [if_pos hv, Memory.read_cons]
        by_cases hb : b = a
        · subst hb
          rw [if_neg (by omega), if_pos rfl, hlow _ (by omega), hv]
        · rw [if_neg hb]
      · rw [if_neg hv, Memory.read_cons]
    · rw [if_neg had]
      by_cases he : a = d
      · subst he
        rw [if_pos rfl]
        by_cases hv : v = unlistedByte a
        · rw [if_pos hv, Memory.read_cons]
          by_cases hb : b = a
          · subst hb; rw [if_pos rfl, hlow _ (by omega), hv]
          · rw [if_neg hb, if_neg hb]
        · rw [if_neg hv, Memory.read_cons, Memory.read_cons]
          by_cases hb : b = a
          · rw [if_pos hb, if_pos hb]
          · rw [if_neg hb, if_neg hb, if_neg hb]
      · rw [if_neg he, Memory.read_cons, Memory.read_cons, ih h4]
        by_cases hb : b = d
        · subst hb; rw [if_pos rfl, if_neg (by omega), if_pos rfl]
        · rw [if_neg hb, if_neg hb]

theorem Memory.read_write (m : Memory) (a b : Nat) (v : Byte) (hm : m.wf = true) :
    (m.write a v).read b = if b = a then v else m.read b := Memory.read_write_wfFrom m a b v hm

/-- Storing bytes inside the memory keeps the canonical form. -/
theorem Memory.writeBytes_wf (m : Memory) (a : Nat) (bytes : List Byte) (hm : m.wf = true)
    (ha : a + bytes.length ≤ memSize) : (m.writeBytes a bytes).wf = true := by
  induction bytes generalizing m a with
  | nil => exact hm
  | cons b rest ih =>
    simp only [List.length_cons] at ha
    exact ih (m.write a b) (a + 1) (Memory.write_wf m a b hm (by omega)) (by omega)

/-- What a read gives after bytes are stored at rising addresses of a canonical memory: the byte stored there, or what
it gave before. -/
theorem Memory.read_writeBytes (m : Memory) (a b : Nat) (bytes : List Byte) (hm : m.wf = true)
    (ha : a + bytes.length ≤ memSize) :
    (m.writeBytes a bytes).read b = if a ≤ b ∧ b < a + bytes.length then bytes.getD (b - a) 0 else m.read b := by
  induction bytes generalizing m a with
  | nil => rw [if_neg (by simp)]; rfl
  | cons c rest ih =>
    simp only [List.length_cons] at ha
    rw [Memory.writeBytes, ih _ _ (Memory.write_wf m a c hm (by omega)) (by omega), Memory.read_write m a b c hm]
    by_cases hb : b = a
    · subst hb
      rw [if_neg (by omega), if_pos rfl, if_pos (by simp)]
      simp
    · rw [if_neg hb]
      by_cases hr : a + 1 ≤ b ∧ b < a + 1 + rest.length
      · obtain ⟨k, rfl⟩ : ∃ k, b = a + 1 + k := ⟨b - (a + 1), by omega⟩
        rw [if_pos hr, if_pos (by simp; omega)]
        have h1 : a + 1 + k - (a + 1) = k := by omega
        have h2 : a + 1 + k - a = k + 1 := by omega
        rw [h1, h2, List.getD_cons_succ]
      · rw [if_neg hr, if_neg (by simp; omega)]

@[simp] theorem Memory.readBytes_length (m : Memory) (a n : Nat) : (m.readBytes a n).length = n := by
  induction n generalizing a with
  | zero => rfl
  | succ n ih => simp [Memory.readBytes, ih]

theorem Memory.readBytes_getElem? (m : Memory) (a n k : Nat) (hk : k < n) :
    (m.readBytes a n)[k]? = some (m.read (a + k)) := by
  induction n generalizing a k with
  | zero => omega
  | succ n ih =>
    cases k with
    | zero => simp [Memory.readBytes]
    | succ k =>
      rw [Memory.readBytes, List.getElem?_cons_succ, ih (a + 1) k (by omega)]
      congr 2
      omega

theorem firstOutOfRange_none {base count : Nat} :
    firstOutOfRange base count = none ↔ count = 0 ∨ base + count ≤ 0x1000 := by
  unfold firstOutOfRange memSize
  split_ifs with h <;> simp [h]

theorem firstOutOfRange_some {base count a : Nat} :
    firstOutOfRange base count = some a ↔ (count ≠ 0 ∧ 0x1000 < base + count) ∧ a = max base 0x1000 := by
  unfold firstOutOfRange memSize
  split_ifs with h
  · simp; omega
  · simp only [Option.some.injEq, eq_comm (a := a)]
    have : count ≠ 0 ∧ 4096 < base + count := by omega
    simp [this]

end Sys2Proof.Machine
end

