-- ==== Sys2Proof/Laws/State.lean ====
section
/-! SUPPORT. One lemma per field of State for every named update of it: what the update writes there, or that it keeps
the field. No later proof unfolds a record update. -/

namespace Sys2Proof.Machine

/-! ## State.setV -/

@[simp] theorem State.setV_v (s : State) (x : Nibble) (b : Byte) : (s.setV x b).v = s.v.set x.toNat b x.isLt := rfl

@[simp] theorem State.setV_i (s : State) (x : Nibble) (b : Byte) : (s.setV x b).i = s.i := rfl

@[simp] theorem State.setV_pc (s : State) (x : Nibble) (b : Byte) : (s.setV x b).pc = s.pc := rfl

@[simp] theorem State.setV_sp (s : State) (x : Nibble) (b : Byte) : (s.setV x b).sp = s.sp := rfl

@[simp] theorem State.setV_stack (s : State) (x : Nibble) (b : Byte) : (s.setV x b).stack = s.stack := rfl

@[simp] theorem State.setV_mem (s : State) (x : Nibble) (b : Byte) : (s.setV x b).mem = s.mem := rfl

@[simp] theorem State.setV_dt (s : State) (x : Nibble) (b : Byte) : (s.setV x b).dt = s.dt := rfl

@[simp] theorem State.setV_st (s : State) (x : Nibble) (b : Byte) : (s.setV x b).st = s.st := rfl

@[simp] theorem State.setV_fb (s : State) (x : Nibble) (b : Byte) : (s.setV x b).fb = s.fb := rfl

@[simp] theorem State.setV_keys (s : State) (x : Nibble) (b : Byte) : (s.setV x b).keys = s.keys := rfl

@[simp] theorem State.setV_await (s : State) (x : Nibble) (b : Byte) : (s.setV x b).await = s.await := rfl

@[simp] theorem State.setV_cfg (s : State) (x : Nibble) (b : Byte) : (s.setV x b).cfg = s.cfg := rfl

@[simp] theorem State.setV_halted (s : State) (x : Nibble) (b : Byte) : (s.setV x b).halted = s.halted := rfl

@[simp] theorem State.setV_fault (s : State) (x : Nibble) (b : Byte) : (s.setV x b).fault = s.fault := rfl

@[simp] theorem State.setV_tickLeft (s : State) (x : Nibble) (b : Byte) : (s.setV x b).tickLeft = s.tickLeft := rfl

@[simp] theorem State.setV_draws (s : State) (x : Nibble) (b : Byte) : (s.setV x b).draws = s.draws := rfl

/-! ## State.setI -/

@[simp] theorem State.setI_v (s : State) (w : Word) : (s.setI w).v = s.v := rfl

@[simp] theorem State.setI_i (s : State) (w : Word) : (s.setI w).i = w := rfl

@[simp] theorem State.setI_pc (s : State) (w : Word) : (s.setI w).pc = s.pc := rfl

@[simp] theorem State.setI_sp (s : State) (w : Word) : (s.setI w).sp = s.sp := rfl

@[simp] theorem State.setI_stack (s : State) (w : Word) : (s.setI w).stack = s.stack := rfl

@[simp] theorem State.setI_mem (s : State) (w : Word) : (s.setI w).mem = s.mem := rfl

@[simp] theorem State.setI_dt (s : State) (w : Word) : (s.setI w).dt = s.dt := rfl

@[simp] theorem State.setI_st (s : State) (w : Word) : (s.setI w).st = s.st := rfl

@[simp] theorem State.setI_fb (s : State) (w : Word) : (s.setI w).fb = s.fb := rfl

@[simp] theorem State.setI_keys (s : State) (w : Word) : (s.setI w).keys = s.keys := rfl

@[simp] theorem State.setI_await (s : State) (w : Word) : (s.setI w).await = s.await := rfl

@[simp] theorem State.setI_cfg (s : State) (w : Word) : (s.setI w).cfg = s.cfg := rfl

@[simp] theorem State.setI_halted (s : State) (w : Word) : (s.setI w).halted = s.halted := rfl

@[simp] theorem State.setI_fault (s : State) (w : Word) : (s.setI w).fault = s.fault := rfl

@[simp] theorem State.setI_tickLeft (s : State) (w : Word) : (s.setI w).tickLeft = s.tickLeft := rfl

@[simp] theorem State.setI_draws (s : State) (w : Word) : (s.setI w).draws = s.draws := rfl

/-! ## State.jump -/

@[simp] theorem State.jump_v (s : State) (w : Word) : (s.jump w).v = s.v := rfl

@[simp] theorem State.jump_i (s : State) (w : Word) : (s.jump w).i = s.i := rfl

@[simp] theorem State.jump_pc (s : State) (w : Word) : (s.jump w).pc = w := rfl

@[simp] theorem State.jump_sp (s : State) (w : Word) : (s.jump w).sp = s.sp := rfl

@[simp] theorem State.jump_stack (s : State) (w : Word) : (s.jump w).stack = s.stack := rfl

@[simp] theorem State.jump_mem (s : State) (w : Word) : (s.jump w).mem = s.mem := rfl

@[simp] theorem State.jump_dt (s : State) (w : Word) : (s.jump w).dt = s.dt := rfl

@[simp] theorem State.jump_st (s : State) (w : Word) : (s.jump w).st = s.st := rfl

@[simp] theorem State.jump_fb (s : State) (w : Word) : (s.jump w).fb = s.fb := rfl

@[simp] theorem State.jump_keys (s : State) (w : Word) : (s.jump w).keys = s.keys := rfl

@[simp] theorem State.jump_await (s : State) (w : Word) : (s.jump w).await = s.await := rfl

@[simp] theorem State.jump_cfg (s : State) (w : Word) : (s.jump w).cfg = s.cfg := rfl

@[simp] theorem State.jump_halted (s : State) (w : Word) : (s.jump w).halted = s.halted := rfl

@[simp] theorem State.jump_fault (s : State) (w : Word) : (s.jump w).fault = s.fault := rfl

@[simp] theorem State.jump_tickLeft (s : State) (w : Word) : (s.jump w).tickLeft = s.tickLeft := rfl

@[simp] theorem State.jump_draws (s : State) (w : Word) : (s.jump w).draws = s.draws := rfl

/-! ## State.advance -/

@[simp] theorem State.advance_v (s : State) (d : Word) : (s.advance d).v = s.v := rfl

@[simp] theorem State.advance_i (s : State) (d : Word) : (s.advance d).i = s.i := rfl

@[simp] theorem State.advance_pc (s : State) (d : Word) : (s.advance d).pc = s.pc + d := rfl

@[simp] theorem State.advance_sp (s : State) (d : Word) : (s.advance d).sp = s.sp := rfl

@[simp] theorem State.advance_stack (s : State) (d : Word) : (s.advance d).stack = s.stack := rfl

@[simp] theorem State.advance_mem (s : State) (d : Word) : (s.advance d).mem = s.mem := rfl

@[simp] theorem State.advance_dt (s : State) (d : Word) : (s.advance d).dt = s.dt := rfl

@[simp] theorem State.advance_st (s : State) (d : Word) : (s.advance d).st = s.st := rfl

@[simp] theorem State.advance_fb (s : State) (d : Word) : (s.advance d).fb = s.fb := rfl

@[simp] theorem State.advance_keys (s : State) (d : Word) : (s.advance d).keys = s.keys := rfl

@[simp] theorem State.advance_await (s : State) (d : Word) : (s.advance d).await = s.await := rfl

@[simp] theorem State.advance_cfg (s : State) (d : Word) : (s.advance d).cfg = s.cfg := rfl

@[simp] theorem State.advance_halted (s : State) (d : Word) : (s.advance d).halted = s.halted := rfl

@[simp] theorem State.advance_fault (s : State) (d : Word) : (s.advance d).fault = s.fault := rfl

@[simp] theorem State.advance_tickLeft (s : State) (d : Word) : (s.advance d).tickLeft = s.tickLeft := rfl

@[simp] theorem State.advance_draws (s : State) (d : Word) : (s.advance d).draws = s.draws := rfl

/-! ## State.skipIf -/

@[simp] theorem State.skipIf_v (s : State) (c : Bool) : (s.skipIf c).v = s.v := rfl

@[simp] theorem State.skipIf_i (s : State) (c : Bool) : (s.skipIf c).i = s.i := rfl

@[simp] theorem State.skipIf_pc (s : State) (c : Bool) : (s.skipIf c).pc = s.pc + if c then 4 else 2 := rfl

@[simp] theorem State.skipIf_sp (s : State) (c : Bool) : (s.skipIf c).sp = s.sp := rfl

@[simp] theorem State.skipIf_stack (s : State) (c : Bool) : (s.skipIf c).stack = s.stack := rfl

@[simp] theorem State.skipIf_mem (s : State) (c : Bool) : (s.skipIf c).mem = s.mem := rfl

@[simp] theorem State.skipIf_dt (s : State) (c : Bool) : (s.skipIf c).dt = s.dt := rfl

@[simp] theorem State.skipIf_st (s : State) (c : Bool) : (s.skipIf c).st = s.st := rfl

@[simp] theorem State.skipIf_fb (s : State) (c : Bool) : (s.skipIf c).fb = s.fb := rfl

@[simp] theorem State.skipIf_keys (s : State) (c : Bool) : (s.skipIf c).keys = s.keys := rfl

@[simp] theorem State.skipIf_await (s : State) (c : Bool) : (s.skipIf c).await = s.await := rfl

@[simp] theorem State.skipIf_cfg (s : State) (c : Bool) : (s.skipIf c).cfg = s.cfg := rfl

@[simp] theorem State.skipIf_halted (s : State) (c : Bool) : (s.skipIf c).halted = s.halted := rfl

@[simp] theorem State.skipIf_fault (s : State) (c : Bool) : (s.skipIf c).fault = s.fault := rfl

@[simp] theorem State.skipIf_tickLeft (s : State) (c : Bool) : (s.skipIf c).tickLeft = s.tickLeft := rfl

@[simp] theorem State.skipIf_draws (s : State) (c : Bool) : (s.skipIf c).draws = s.draws := rfl

/-! ## State.setDt -/

@[simp] theorem State.setDt_v (s : State) (b : Byte) : (s.setDt b).v = s.v := rfl

@[simp] theorem State.setDt_i (s : State) (b : Byte) : (s.setDt b).i = s.i := rfl

@[simp] theorem State.setDt_pc (s : State) (b : Byte) : (s.setDt b).pc = s.pc := rfl

@[simp] theorem State.setDt_sp (s : State) (b : Byte) : (s.setDt b).sp = s.sp := rfl

@[simp] theorem State.setDt_stack (s : State) (b : Byte) : (s.setDt b).stack = s.stack := rfl

@[simp] theorem State.setDt_mem (s : State) (b : Byte) : (s.setDt b).mem = s.mem := rfl

@[simp] theorem State.setDt_dt (s : State) (b : Byte) : (s.setDt b).dt = b := rfl

@[simp] theorem State.setDt_st (s : State) (b : Byte) : (s.setDt b).st = s.st := rfl

@[simp] theorem State.setDt_fb (s : State) (b : Byte) : (s.setDt b).fb = s.fb := rfl

@[simp] theorem State.setDt_keys (s : State) (b : Byte) : (s.setDt b).keys = s.keys := rfl

@[simp] theorem State.setDt_await (s : State) (b : Byte) : (s.setDt b).await = s.await := rfl

@[simp] theorem State.setDt_cfg (s : State) (b : Byte) : (s.setDt b).cfg = s.cfg := rfl

@[simp] theorem State.setDt_halted (s : State) (b : Byte) : (s.setDt b).halted = s.halted := rfl

@[simp] theorem State.setDt_fault (s : State) (b : Byte) : (s.setDt b).fault = s.fault := rfl

@[simp] theorem State.setDt_tickLeft (s : State) (b : Byte) : (s.setDt b).tickLeft = s.tickLeft := rfl

@[simp] theorem State.setDt_draws (s : State) (b : Byte) : (s.setDt b).draws = s.draws := rfl

/-! ## State.setSt -/

@[simp] theorem State.setSt_v (s : State) (b : Byte) : (s.setSt b).v = s.v := rfl

@[simp] theorem State.setSt_i (s : State) (b : Byte) : (s.setSt b).i = s.i := rfl

@[simp] theorem State.setSt_pc (s : State) (b : Byte) : (s.setSt b).pc = s.pc := rfl

@[simp] theorem State.setSt_sp (s : State) (b : Byte) : (s.setSt b).sp = s.sp := rfl

@[simp] theorem State.setSt_stack (s : State) (b : Byte) : (s.setSt b).stack = s.stack := rfl

@[simp] theorem State.setSt_mem (s : State) (b : Byte) : (s.setSt b).mem = s.mem := rfl

@[simp] theorem State.setSt_dt (s : State) (b : Byte) : (s.setSt b).dt = s.dt := rfl

@[simp] theorem State.setSt_st (s : State) (b : Byte) : (s.setSt b).st = b := rfl

@[simp] theorem State.setSt_fb (s : State) (b : Byte) : (s.setSt b).fb = s.fb := rfl

@[simp] theorem State.setSt_keys (s : State) (b : Byte) : (s.setSt b).keys = s.keys := rfl

@[simp] theorem State.setSt_await (s : State) (b : Byte) : (s.setSt b).await = s.await := rfl

@[simp] theorem State.setSt_cfg (s : State) (b : Byte) : (s.setSt b).cfg = s.cfg := rfl

@[simp] theorem State.setSt_halted (s : State) (b : Byte) : (s.setSt b).halted = s.halted := rfl

@[simp] theorem State.setSt_fault (s : State) (b : Byte) : (s.setSt b).fault = s.fault := rfl

@[simp] theorem State.setSt_tickLeft (s : State) (b : Byte) : (s.setSt b).tickLeft = s.tickLeft := rfl

@[simp] theorem State.setSt_draws (s : State) (b : Byte) : (s.setSt b).draws = s.draws := rfl

/-! ## State.setAwait -/

@[simp] theorem State.setAwait_v (s : State) (b : Bool) : (s.setAwait b).v = s.v := rfl

@[simp] theorem State.setAwait_i (s : State) (b : Bool) : (s.setAwait b).i = s.i := rfl

@[simp] theorem State.setAwait_pc (s : State) (b : Bool) : (s.setAwait b).pc = s.pc := rfl

@[simp] theorem State.setAwait_sp (s : State) (b : Bool) : (s.setAwait b).sp = s.sp := rfl

@[simp] theorem State.setAwait_stack (s : State) (b : Bool) : (s.setAwait b).stack = s.stack := rfl

@[simp] theorem State.setAwait_mem (s : State) (b : Bool) : (s.setAwait b).mem = s.mem := rfl

@[simp] theorem State.setAwait_dt (s : State) (b : Bool) : (s.setAwait b).dt = s.dt := rfl

@[simp] theorem State.setAwait_st (s : State) (b : Bool) : (s.setAwait b).st = s.st := rfl

@[simp] theorem State.setAwait_fb (s : State) (b : Bool) : (s.setAwait b).fb = s.fb := rfl

@[simp] theorem State.setAwait_keys (s : State) (b : Bool) : (s.setAwait b).keys = s.keys := rfl

@[simp] theorem State.setAwait_await (s : State) (b : Bool) : (s.setAwait b).await = b := rfl

@[simp] theorem State.setAwait_cfg (s : State) (b : Bool) : (s.setAwait b).cfg = s.cfg := rfl

@[simp] theorem State.setAwait_halted (s : State) (b : Bool) : (s.setAwait b).halted = s.halted := rfl

@[simp] theorem State.setAwait_fault (s : State) (b : Bool) : (s.setAwait b).fault = s.fault := rfl

@[simp] theorem State.setAwait_tickLeft (s : State) (b : Bool) : (s.setAwait b).tickLeft = s.tickLeft := rfl

@[simp] theorem State.setAwait_draws (s : State) (b : Bool) : (s.setAwait b).draws = s.draws := rfl

/-! ## State.setMem -/

@[simp] theorem State.setMem_v (s : State) (m : Memory) : (s.setMem m).v = s.v := rfl

@[simp] theorem State.setMem_i (s : State) (m : Memory) : (s.setMem m).i = s.i := rfl

@[simp] theorem State.setMem_pc (s : State) (m : Memory) : (s.setMem m).pc = s.pc := rfl

@[simp] theorem State.setMem_sp (s : State) (m : Memory) : (s.setMem m).sp = s.sp := rfl

@[simp] theorem State.setMem_stack (s : State) (m : Memory) : (s.setMem m).stack = s.stack := rfl

@[simp] theorem State.setMem_mem (s : State) (m : Memory) : (s.setMem m).mem = m := rfl

@[simp] theorem State.setMem_dt (s : State) (m : Memory) : (s.setMem m).dt = s.dt := rfl

@[simp] theorem State.setMem_st (s : State) (m : Memory) : (s.setMem m).st = s.st := rfl

@[simp] theorem State.setMem_fb (s : State) (m : Memory) : (s.setMem m).fb = s.fb := rfl

@[simp] theorem State.setMem_keys (s : State) (m : Memory) : (s.setMem m).keys = s.keys := rfl

@[simp] theorem State.setMem_await (s : State) (m : Memory) : (s.setMem m).await = s.await := rfl

@[simp] theorem State.setMem_cfg (s : State) (m : Memory) : (s.setMem m).cfg = s.cfg := rfl

@[simp] theorem State.setMem_halted (s : State) (m : Memory) : (s.setMem m).halted = s.halted := rfl

@[simp] theorem State.setMem_fault (s : State) (m : Memory) : (s.setMem m).fault = s.fault := rfl

@[simp] theorem State.setMem_tickLeft (s : State) (m : Memory) : (s.setMem m).tickLeft = s.tickLeft := rfl

@[simp] theorem State.setMem_draws (s : State) (m : Memory) : (s.setMem m).draws = s.draws := rfl

/-! ## State.setFb -/

@[simp] theorem State.setFb_v (s : State) (fb : Display) : (s.setFb fb).v = s.v := rfl

@[simp] theorem State.setFb_i (s : State) (fb : Display) : (s.setFb fb).i = s.i := rfl

@[simp] theorem State.setFb_pc (s : State) (fb : Display) : (s.setFb fb).pc = s.pc := rfl

@[simp] theorem State.setFb_sp (s : State) (fb : Display) : (s.setFb fb).sp = s.sp := rfl

@[simp] theorem State.setFb_stack (s : State) (fb : Display) : (s.setFb fb).stack = s.stack := rfl

@[simp] theorem State.setFb_mem (s : State) (fb : Display) : (s.setFb fb).mem = s.mem := rfl

@[simp] theorem State.setFb_dt (s : State) (fb : Display) : (s.setFb fb).dt = s.dt := rfl

@[simp] theorem State.setFb_st (s : State) (fb : Display) : (s.setFb fb).st = s.st := rfl

@[simp] theorem State.setFb_fb (s : State) (fb : Display) : (s.setFb fb).fb = fb := rfl

@[simp] theorem State.setFb_keys (s : State) (fb : Display) : (s.setFb fb).keys = s.keys := rfl

@[simp] theorem State.setFb_await (s : State) (fb : Display) : (s.setFb fb).await = s.await := rfl

@[simp] theorem State.setFb_cfg (s : State) (fb : Display) : (s.setFb fb).cfg = s.cfg := rfl

@[simp] theorem State.setFb_halted (s : State) (fb : Display) : (s.setFb fb).halted = s.halted := rfl

@[simp] theorem State.setFb_fault (s : State) (fb : Display) : (s.setFb fb).fault = s.fault := rfl

@[simp] theorem State.setFb_tickLeft (s : State) (fb : Display) : (s.setFb fb).tickLeft = s.tickLeft := rfl

@[simp] theorem State.setFb_draws (s : State) (fb : Display) : (s.setFb fb).draws = s.draws := rfl

/-! ## State.loadV -/

@[simp] theorem State.loadV_v (s : State) (l : List Byte) : (s.loadV l).v = writeRegs s.v 0 l := rfl

@[simp] theorem State.loadV_i (s : State) (l : List Byte) : (s.loadV l).i = s.i := rfl

@[simp] theorem State.loadV_pc (s : State) (l : List Byte) : (s.loadV l).pc = s.pc := rfl

@[simp] theorem State.loadV_sp (s : State) (l : List Byte) : (s.loadV l).sp = s.sp := rfl

@[simp] theorem State.loadV_stack (s : State) (l : List Byte) : (s.loadV l).stack = s.stack := rfl

@[simp] theorem State.loadV_mem (s : State) (l : List Byte) : (s.loadV l).mem = s.mem := rfl

@[simp] theorem State.loadV_dt (s : State) (l : List Byte) : (s.loadV l).dt = s.dt := rfl

@[simp] theorem State.loadV_st (s : State) (l : List Byte) : (s.loadV l).st = s.st := rfl

@[simp] theorem State.loadV_fb (s : State) (l : List Byte) : (s.loadV l).fb = s.fb := rfl

@[simp] theorem State.loadV_keys (s : State) (l : List Byte) : (s.loadV l).keys = s.keys := rfl

@[simp] theorem State.loadV_await (s : State) (l : List Byte) : (s.loadV l).await = s.await := rfl

@[simp] theorem State.loadV_cfg (s : State) (l : List Byte) : (s.loadV l).cfg = s.cfg := rfl

@[simp] theorem State.loadV_halted (s : State) (l : List Byte) : (s.loadV l).halted = s.halted := rfl

@[simp] theorem State.loadV_fault (s : State) (l : List Byte) : (s.loadV l).fault = s.fault := rfl

@[simp] theorem State.loadV_tickLeft (s : State) (l : List Byte) : (s.loadV l).tickLeft = s.tickLeft := rfl

@[simp] theorem State.loadV_draws (s : State) (l : List Byte) : (s.loadV l).draws = s.draws := rfl

/-! ## State.setFlag -/

@[simp] theorem State.setFlag_v (s : State) (b : Bool) : (s.setFlag b).v = (s.setV 15 (flagByte b)).v := rfl

@[simp] theorem State.setFlag_i (s : State) (b : Bool) : (s.setFlag b).i = s.i := rfl

@[simp] theorem State.setFlag_pc (s : State) (b : Bool) : (s.setFlag b).pc = s.pc := rfl

@[simp] theorem State.setFlag_sp (s : State) (b : Bool) : (s.setFlag b).sp = s.sp := rfl

@[simp] theorem State.setFlag_stack (s : State) (b : Bool) : (s.setFlag b).stack = s.stack := rfl

@[simp] theorem State.setFlag_mem (s : State) (b : Bool) : (s.setFlag b).mem = s.mem := rfl

@[simp] theorem State.setFlag_dt (s : State) (b : Bool) : (s.setFlag b).dt = s.dt := rfl

@[simp] theorem State.setFlag_st (s : State) (b : Bool) : (s.setFlag b).st = s.st := rfl

@[simp] theorem State.setFlag_fb (s : State) (b : Bool) : (s.setFlag b).fb = s.fb := rfl

@[simp] theorem State.setFlag_keys (s : State) (b : Bool) : (s.setFlag b).keys = s.keys := rfl

@[simp] theorem State.setFlag_await (s : State) (b : Bool) : (s.setFlag b).await = s.await := rfl

@[simp] theorem State.setFlag_cfg (s : State) (b : Bool) : (s.setFlag b).cfg = s.cfg := rfl

@[simp] theorem State.setFlag_halted (s : State) (b : Bool) : (s.setFlag b).halted = s.halted := rfl

@[simp] theorem State.setFlag_fault (s : State) (b : Bool) : (s.setFlag b).fault = s.fault := rfl

@[simp] theorem State.setFlag_tickLeft (s : State) (b : Bool) : (s.setFlag b).tickLeft = s.tickLeft := rfl

@[simp] theorem State.setFlag_draws (s : State) (b : Bool) : (s.setFlag b).draws = s.draws := rfl

/-! ## State.writeResult -/

@[simp] theorem State.writeResult_v (s : State) (x : Nibble) (r : AluResult) : (s.writeResult x r).v = ((s.setV x r.value).setFlag r.flag).v := rfl

@[simp] theorem State.writeResult_i (s : State) (x : Nibble) (r : AluResult) : (s.writeResult x r).i = s.i := by
  simp [State.writeResult]

@[simp] theorem State.writeResult_pc (s : State) (x : Nibble) (r : AluResult) : (s.writeResult x r).pc = s.pc := by
  simp [State.writeResult]

@[simp] theorem State.writeResult_sp (s : State) (x : Nibble) (r : AluResult) : (s.writeResult x r).sp = s.sp := by
  simp [State.writeResult]

@[simp] theorem State.writeResult_stack (s : State) (x : Nibble) (r : AluResult) : (s.writeResult x r).stack = s.stack := by
  simp [State.writeResult]

@[simp] theorem State.writeResult_mem (s : State) (x : Nibble) (r : AluResult) : (s.writeResult x r).mem = s.mem := by
  simp [State.writeResult]

@[simp] theorem State.writeResult_dt (s : State) (x : Nibble) (r : AluResult) : (s.writeResult x r).dt = s.dt := by
  simp [State.writeResult]

@[simp] theorem State.writeResult_st (s : State) (x : Nibble) (r : AluResult) : (s.writeResult x r).st = s.st := by
  simp [State.writeResult]

@[simp] theorem State.writeResult_fb (s : State) (x : Nibble) (r : AluResult) : (s.writeResult x r).fb = s.fb := by
  simp [State.writeResult]

@[simp] theorem State.writeResult_keys (s : State) (x : Nibble) (r : AluResult) : (s.writeResult x r).keys = s.keys := by
  simp [State.writeResult]

@[simp] theorem State.writeResult_await (s : State) (x : Nibble) (r : AluResult) : (s.writeResult x r).await = s.await := by
  simp [State.writeResult]

@[simp] theorem State.writeResult_cfg (s : State) (x : Nibble) (r : AluResult) : (s.writeResult x r).cfg = s.cfg := by
  simp [State.writeResult]

@[simp] theorem State.writeResult_halted (s : State) (x : Nibble) (r : AluResult) : (s.writeResult x r).halted = s.halted := by
  simp [State.writeResult]

@[simp] theorem State.writeResult_fault (s : State) (x : Nibble) (r : AluResult) : (s.writeResult x r).fault = s.fault := by
  simp [State.writeResult]

@[simp] theorem State.writeResult_tickLeft (s : State) (x : Nibble) (r : AluResult) : (s.writeResult x r).tickLeft = s.tickLeft := by
  simp [State.writeResult]

@[simp] theorem State.writeResult_draws (s : State) (x : Nibble) (r : AluResult) : (s.writeResult x r).draws = s.draws := by
  simp [State.writeResult]

/-! ## State.writeLogic -/

@[simp] theorem State.writeLogic_i (s : State) (x : Nibble) (b : Byte) : (s.writeLogic x b).i = s.i := by
  unfold State.writeLogic; split <;> rfl

@[simp] theorem State.writeLogic_pc (s : State) (x : Nibble) (b : Byte) : (s.writeLogic x b).pc = s.pc := by
  unfold State.writeLogic; split <;> rfl

@[simp] theorem State.writeLogic_sp (s : State) (x : Nibble) (b : Byte) : (s.writeLogic x b).sp = s.sp := by
  unfold State.writeLogic; split <;> rfl

@[simp] theorem State.writeLogic_stack (s : State) (x : Nibble) (b : Byte) : (s.writeLogic x b).stack = s.stack := by
  unfold State.writeLogic; split <;> rfl

@[simp] theorem State.writeLogic_mem (s : State) (x : Nibble) (b : Byte) : (s.writeLogic x b).mem = s.mem := by
  unfold State.writeLogic; split <;> rfl

@[simp] theorem State.writeLogic_dt (s : State) (x : Nibble) (b : Byte) : (s.writeLogic x b).dt = s.dt := by
  unfold State.writeLogic; split <;> rfl

@[simp] theorem State.writeLogic_st (s : State) (x : Nibble) (b : Byte) : (s.writeLogic x b).st = s.st := by
  unfold State.writeLogic; split <;> rfl

@[simp] theorem State.writeLogic_fb (s : State) (x : Nibble) (b : Byte) : (s.writeLogic x b).fb = s.fb := by
  unfold State.writeLogic; split <;> rfl

@[simp] theorem State.writeLogic_keys (s : State) (x : Nibble) (b : Byte) : (s.writeLogic x b).keys = s.keys := by
  unfold State.writeLogic; split <;> rfl

@[simp] theorem State.writeLogic_await (s : State) (x : Nibble) (b : Byte) : (s.writeLogic x b).await = s.await := by
  unfold State.writeLogic; split <;> rfl

@[simp] theorem State.writeLogic_cfg (s : State) (x : Nibble) (b : Byte) : (s.writeLogic x b).cfg = s.cfg := by
  unfold State.writeLogic; split <;> rfl

@[simp] theorem State.writeLogic_halted (s : State) (x : Nibble) (b : Byte) : (s.writeLogic x b).halted = s.halted := by
  unfold State.writeLogic; split <;> rfl

@[simp] theorem State.writeLogic_fault (s : State) (x : Nibble) (b : Byte) : (s.writeLogic x b).fault = s.fault := by
  unfold State.writeLogic; split <;> rfl

@[simp] theorem State.writeLogic_tickLeft (s : State) (x : Nibble) (b : Byte) : (s.writeLogic x b).tickLeft = s.tickLeft := by
  unfold State.writeLogic; split <;> rfl

@[simp] theorem State.writeLogic_draws (s : State) (x : Nibble) (b : Byte) : (s.writeLogic x b).draws = s.draws := by
  unfold State.writeLogic; split <;> rfl

/-! ## State.raiseFatal -/

@[simp] theorem State.raiseFatal_v (s : State) (c : FatalCause) (n : Nat) (w : Option Word) : (s.raiseFatal c n w).v = s.v := rfl

@[simp] theorem State.raiseFatal_i (s : State) (c : FatalCause) (n : Nat) (w : Option Word) : (s.raiseFatal c n w).i = s.i := rfl

@[simp] theorem State.raiseFatal_pc (s : State) (c : FatalCause) (n : Nat) (w : Option Word) : (s.raiseFatal c n w).pc = s.pc := rfl

@[simp] theorem State.raiseFatal_sp (s : State) (c : FatalCause) (n : Nat) (w : Option Word) : (s.raiseFatal c n w).sp = s.sp := rfl

@[simp] theorem State.raiseFatal_stack (s : State) (c : FatalCause) (n : Nat) (w : Option Word) : (s.raiseFatal c n w).stack = s.stack := rfl

@[simp] theorem State.raiseFatal_mem (s : State) (c : FatalCause) (n : Nat) (w : Option Word) : (s.raiseFatal c n w).mem = s.mem := rfl

@[simp] theorem State.raiseFatal_dt (s : State) (c : FatalCause) (n : Nat) (w : Option Word) : (s.raiseFatal c n w).dt = s.dt := rfl

@[simp] theorem State.raiseFatal_st (s : State) (c : FatalCause) (n : Nat) (w : Option Word) : (s.raiseFatal c n w).st = s.st := rfl

@[simp] theorem State.raiseFatal_fb (s : State) (c : FatalCause) (n : Nat) (w : Option Word) : (s.raiseFatal c n w).fb = s.fb := rfl

@[simp] theorem State.raiseFatal_keys (s : State) (c : FatalCause) (n : Nat) (w : Option Word) : (s.raiseFatal c n w).keys = s.keys := rfl

@[simp] theorem State.raiseFatal_await (s : State) (c : FatalCause) (n : Nat) (w : Option Word) : (s.raiseFatal c n w).await = s.await := rfl

@[simp] theorem State.raiseFatal_cfg (s : State) (c : FatalCause) (n : Nat) (w : Option Word) : (s.raiseFatal c n w).cfg = s.cfg := rfl

@[simp] theorem State.raiseFatal_halted (s : State) (c : FatalCause) (n : Nat) (w : Option Word) : (s.raiseFatal c n w).halted = true := rfl

@[simp] theorem State.raiseFatal_fault (s : State) (c : FatalCause) (n : Nat) (w : Option Word) : (s.raiseFatal c n w).fault = some ⟨c, n, s.pc, w⟩ := rfl

@[simp] theorem State.raiseFatal_tickLeft (s : State) (c : FatalCause) (n : Nat) (w : Option Word) : (s.raiseFatal c n w).tickLeft = s.tickLeft := rfl

@[simp] theorem State.raiseFatal_draws (s : State) (c : FatalCause) (n : Nat) (w : Option Word) : (s.raiseFatal c n w).draws = s.draws := rfl

/-! ## State.afterDraw -/

@[simp] theorem State.afterDraw_v (s : State) : (s.afterDraw).v = s.v := rfl

@[simp] theorem State.afterDraw_i (s : State) : (s.afterDraw).i = s.i := rfl

@[simp] theorem State.afterDraw_pc (s : State) : (s.afterDraw).pc = s.pc := rfl

@[simp] theorem State.afterDraw_sp (s : State) : (s.afterDraw).sp = s.sp := rfl

@[simp] theorem State.afterDraw_stack (s : State) : (s.afterDraw).stack = s.stack := rfl

@[simp] theorem State.afterDraw_mem (s : State) : (s.afterDraw).mem = s.mem := rfl

@[simp] theorem State.afterDraw_dt (s : State) : (s.afterDraw).dt = s.dt := rfl

@[simp] theorem State.afterDraw_st (s : State) : (s.afterDraw).st = s.st := rfl

@[simp] theorem State.afterDraw_fb (s : State) : (s.afterDraw).fb = s.fb := rfl

@[simp] theorem State.afterDraw_keys (s : State) : (s.afterDraw).keys = s.keys := rfl

@[simp] theorem State.afterDraw_await (s : State) : (s.afterDraw).await = s.await := rfl

@[simp] theorem State.afterDraw_cfg (s : State) : (s.afterDraw).cfg = s.cfg := rfl

@[simp] theorem State.afterDraw_halted (s : State) : (s.afterDraw).halted = s.halted := rfl

@[simp] theorem State.afterDraw_fault (s : State) : (s.afterDraw).fault = s.fault := rfl

@[simp] theorem State.afterDraw_tickLeft (s : State) : (s.afterDraw).tickLeft = s.tickLeft := rfl

@[simp] theorem State.afterDraw_draws (s : State) : (s.afterDraw).draws = s.draws + 1 := rfl

/-! ## State.setTickLeft -/

@[simp] theorem State.setTickLeft_v (s : State) (k : Nat) : (s.setTickLeft k).v = s.v := rfl

@[simp] theorem State.setTickLeft_i (s : State) (k : Nat) : (s.setTickLeft k).i = s.i := rfl

@[simp] theorem State.setTickLeft_pc (s : State) (k : Nat) : (s.setTickLeft k).pc = s.pc := rfl

@[simp] theorem State.setTickLeft_sp (s : State) (k : Nat) : (s.setTickLeft k).sp = s.sp := rfl

@[simp] theorem State.setTickLeft_stack (s : State) (k : Nat) : (s.setTickLeft k).stack = s.stack := rfl

@[simp] theorem State.setTickLeft_mem (s : State) (k : Nat) : (s.setTickLeft k).mem = s.mem := rfl

@[simp] theorem State.setTickLeft_dt (s : State) (k : Nat) : (s.setTickLeft k).dt = s.dt := rfl

@[simp] theorem State.setTickLeft_st (s : State) (k : Nat) : (s.setTickLeft k).st = s.st := rfl

@[simp] theorem State.setTickLeft_fb (s : State) (k : Nat) : (s.setTickLeft k).fb = s.fb := rfl

@[simp] theorem State.setTickLeft_keys (s : State) (k : Nat) : (s.setTickLeft k).keys = s.keys := rfl

@[simp] theorem State.setTickLeft_await (s : State) (k : Nat) : (s.setTickLeft k).await = s.await := rfl

@[simp] theorem State.setTickLeft_cfg (s : State) (k : Nat) : (s.setTickLeft k).cfg = s.cfg := rfl

@[simp] theorem State.setTickLeft_halted (s : State) (k : Nat) : (s.setTickLeft k).halted = s.halted := rfl

@[simp] theorem State.setTickLeft_fault (s : State) (k : Nat) : (s.setTickLeft k).fault = s.fault := rfl

@[simp] theorem State.setTickLeft_tickLeft (s : State) (k : Nat) : (s.setTickLeft k).tickLeft = k := rfl

@[simp] theorem State.setTickLeft_draws (s : State) (k : Nat) : (s.setTickLeft k).draws = s.draws := rfl

/-! ## State.setKey -/

@[simp] theorem State.setKey_v (s : State) (k : Nibble) (p : Bool) : (s.setKey k p).v = s.v := rfl

@[simp] theorem State.setKey_i (s : State) (k : Nibble) (p : Bool) : (s.setKey k p).i = s.i := rfl

@[simp] theorem State.setKey_pc (s : State) (k : Nibble) (p : Bool) : (s.setKey k p).pc = s.pc := rfl

@[simp] theorem State.setKey_sp (s : State) (k : Nibble) (p : Bool) : (s.setKey k p).sp = s.sp := rfl

@[simp] theorem State.setKey_stack (s : State) (k : Nibble) (p : Bool) : (s.setKey k p).stack = s.stack := rfl

@[simp] theorem State.setKey_mem (s : State) (k : Nibble) (p : Bool) : (s.setKey k p).mem = s.mem := rfl

@[simp] theorem State.setKey_dt (s : State) (k : Nibble) (p : Bool) : (s.setKey k p).dt = s.dt := rfl

@[simp] theorem State.setKey_st (s : State) (k : Nibble) (p : Bool) : (s.setKey k p).st = s.st := rfl

@[simp] theorem State.setKey_fb (s : State) (k : Nibble) (p : Bool) : (s.setKey k p).fb = s.fb := rfl

@[simp] theorem State.setKey_keys (s : State) (k : Nibble) (p : Bool) : (s.setKey k p).keys = s.keys.set k.toNat p k.isLt := rfl

@[simp] theorem State.setKey_await (s : State) (k : Nibble) (p : Bool) : (s.setKey k p).await = s.await := rfl

@[simp] theorem State.setKey_cfg (s : State) (k : Nibble) (p : Bool) : (s.setKey k p).cfg = s.cfg := rfl

@[simp] theorem State.setKey_halted (s : State) (k : Nibble) (p : Bool) : (s.setKey k p).halted = s.halted := rfl

@[simp] theorem State.setKey_fault (s : State) (k : Nibble) (p : Bool) : (s.setKey k p).fault = s.fault := rfl

@[simp] theorem State.setKey_tickLeft (s : State) (k : Nibble) (p : Bool) : (s.setKey k p).tickLeft = s.tickLeft := rfl

@[simp] theorem State.setKey_draws (s : State) (k : Nibble) (p : Bool) : (s.setKey k p).draws = s.draws := rfl

/-! ## State.setConfig -/

@[simp] theorem State.setConfig_v (s : State) (r : ConfigRequest) : (s.setConfig r).v = s.v := rfl

@[simp] theorem State.setConfig_i (s : State) (r : ConfigRequest) : (s.setConfig r).i = s.i := rfl

@[simp] theorem State.setConfig_pc (s : State) (r : ConfigRequest) : (s.setConfig r).pc = s.pc := rfl

@[simp] theorem State.setConfig_sp (s : State) (r : ConfigRequest) : (s.setConfig r).sp = s.sp := rfl

@[simp] theorem State.setConfig_stack (s : State) (r : ConfigRequest) : (s.setConfig r).stack = s.stack := rfl

@[simp] theorem State.setConfig_mem (s : State) (r : ConfigRequest) : (s.setConfig r).mem = s.mem := rfl

@[simp] theorem State.setConfig_dt (s : State) (r : ConfigRequest) : (s.setConfig r).dt = s.dt := rfl

@[simp] theorem State.setConfig_st (s : State) (r : ConfigRequest) : (s.setConfig r).st = s.st := rfl

@[simp] theorem State.setConfig_fb (s : State) (r : ConfigRequest) : (s.setConfig r).fb = s.fb := rfl

@[simp] theorem State.setConfig_keys (s : State) (r : ConfigRequest) : (s.setConfig r).keys = s.keys := rfl

@[simp] theorem State.setConfig_await (s : State) (r : ConfigRequest) : (s.setConfig r).await = s.await := rfl

@[simp] theorem State.setConfig_cfg (s : State) (r : ConfigRequest) : (s.setConfig r).cfg = s.cfg.update r := rfl

@[simp] theorem State.setConfig_halted (s : State) (r : ConfigRequest) : (s.setConfig r).halted = s.halted := rfl

@[simp] theorem State.setConfig_fault (s : State) (r : ConfigRequest) : (s.setConfig r).fault = s.fault := rfl

@[simp] theorem State.setConfig_tickLeft (s : State) (r : ConfigRequest) : (s.setConfig r).tickLeft = s.tickLeft := rfl

@[simp] theorem State.setConfig_draws (s : State) (r : ConfigRequest) : (s.setConfig r).draws = s.draws := rfl

/-! ## timerStep -/

@[simp] theorem timerStep_v (s : State) : (timerStep s).v = s.v := rfl

@[simp] theorem timerStep_i (s : State) : (timerStep s).i = s.i := rfl

@[simp] theorem timerStep_pc (s : State) : (timerStep s).pc = s.pc := rfl

@[simp] theorem timerStep_sp (s : State) : (timerStep s).sp = s.sp := rfl

@[simp] theorem timerStep_stack (s : State) : (timerStep s).stack = s.stack := rfl

@[simp] theorem timerStep_mem (s : State) : (timerStep s).mem = s.mem := rfl

@[simp] theorem timerStep_dt (s : State) : (timerStep s).dt = countDown s.dt := rfl

@[simp] theorem timerStep_st (s : State) : (timerStep s).st = countDown s.st := rfl

@[simp] theorem timerStep_fb (s : State) : (timerStep s).fb = s.fb := rfl

@[simp] theorem timerStep_keys (s : State) : (timerStep s).keys = s.keys := rfl

@[simp] theorem timerStep_await (s : State) : (timerStep s).await = s.await := rfl

@[simp] theorem timerStep_cfg (s : State) : (timerStep s).cfg = s.cfg := rfl

@[simp] theorem timerStep_halted (s : State) : (timerStep s).halted = s.halted := rfl

@[simp] theorem timerStep_fault (s : State) : (timerStep s).fault = s.fault := rfl

@[simp] theorem timerStep_tickLeft (s : State) : (timerStep s).tickLeft = s.tickLeft := rfl

@[simp] theorem timerStep_draws (s : State) : (timerStep s).draws = s.draws := rfl

end Sys2Proof.Machine
end

