-- ==== Sys2Proof/Laws/Registers.lean ====
section
/-! SUPPORT. What the register operations read back: the general registers, the flag, the bulk load, the stack and the
keys. -/

namespace Sys2Proof.Machine

/-- Two nibbles are equal when their values are. -/
theorem nibble_toNat_inj {x y : Nibble} : x.toNat = y.toNat ↔ x = y := BitVec.toNat_inj

@[simp] theorem State.getV_setV (s : State) (x k : Nibble) (b : Byte) :
    (s.setV x b).getV k = if k = x then b else s.getV k := by
  unfold State.getV State.setV
  rw [Vector.getElem_set]
  by_cases h : k = x
  · subst h; simp
  · rw [if_neg (by rw [nibble_toNat_inj]; exact fun e => h e.symm), if_neg h]

/-- An update that keeps `v` keeps every register. -/
theorem State.getV_congr {s t : State} (h : t.v = s.v) (k : Nibble) : t.getV k = s.getV k := by
  unfold State.getV
  simp [h]

@[simp] theorem State.getV_setI (s : State) (w : Word) (k : Nibble) : (s.setI w).getV k = s.getV k := rfl
@[simp] theorem State.getV_jump (s : State) (w : Word) (k : Nibble) : (s.jump w).getV k = s.getV k := rfl
@[simp] theorem State.getV_advance (s : State) (d : Word) (k : Nibble) : (s.advance d).getV k = s.getV k := rfl
@[simp] theorem State.getV_skipIf (s : State) (c : Bool) (k : Nibble) : (s.skipIf c).getV k = s.getV k := rfl
@[simp] theorem State.getV_setDt (s : State) (b : Byte) (k : Nibble) : (s.setDt b).getV k = s.getV k := rfl
@[simp] theorem State.getV_setSt (s : State) (b : Byte) (k : Nibble) : (s.setSt b).getV k = s.getV k := rfl
@[simp] theorem State.getV_setAwait (s : State) (b : Bool) (k : Nibble) : (s.setAwait b).getV k = s.getV k := rfl
@[simp] theorem State.getV_setMem (s : State) (m : Memory) (k : Nibble) : (s.setMem m).getV k = s.getV k := rfl
@[simp] theorem State.getV_setFb (s : State) (fb : Display) (k : Nibble) : (s.setFb fb).getV k = s.getV k := rfl
@[simp] theorem State.getV_afterDraw (s : State) (k : Nibble) : s.afterDraw.getV k = s.getV k := rfl
@[simp] theorem State.getV_raiseFatal (s : State) (c : FatalCause) (n : Nat) (w : Option Word) (k : Nibble) :
    (s.raiseFatal c n w).getV k = s.getV k := rfl
@[simp] theorem State.getV_setTickLeft (s : State) (n : Nat) (k : Nibble) : (s.setTickLeft n).getV k = s.getV k := rfl
@[simp] theorem State.getV_timerStep (s : State) (k : Nibble) : (timerStep s).getV k = s.getV k := rfl

@[simp] theorem State.getV_setFlag (s : State) (b : Bool) (k : Nibble) :
    (s.setFlag b).getV k = if k = 15 then flagByte b else s.getV k := State.getV_setV s 15 k _

/-- The flag is the last write: `V[15]` holds it, even where the destination is 15 (R134). -/
@[simp] theorem State.getV_writeResult (s : State) (x k : Nibble) (r : AluResult) :
    (s.writeResult x r).getV k = if k = 15 then flagByte r.flag else if k = x then r.value else s.getV k := by
  simp [State.writeResult]

@[simp] theorem State.getV_writeLogic (s : State) (x k : Nibble) (b : Byte) :
    (s.writeLogic x b).getV k =
      if k = 15 ∧ s.cfg.vfReset = true then 0 else if k = x then b else s.getV k := by
  unfold State.writeLogic
  by_cases h : s.cfg.vfReset <;> by_cases hk : k = 15 <;> simp [h, hk, flagByte]

/-! ## The bulk load -/

theorem writeRegs_getElem (v : Vector Byte 16) (n : Nat) (bytes : List Byte) (k : Nat) (hk : k < 16) :
    (writeRegs v n bytes)[k] = if n ≤ k ∧ k < n + bytes.length then bytes.getD (k - n) 0 else v[k] := by
  induction bytes generalizing v n with
  | nil => rw [if_neg (by simp)]; rfl
  | cons b rest ih =>
    rw [writeRegs, ih, List.length_cons]
    by_cases hr : n + 1 ≤ k ∧ k < n + 1 + rest.length
    · obtain ⟨j, rfl⟩ : ∃ j, k = n + 1 + j := ⟨k - (n + 1), by omega⟩
      rw [if_pos hr, if_pos (by omega)]
      have h1 : n + 1 + j - (n + 1) = j := by omega
      have h2 : n + 1 + j - n = j + 1 := by omega
      rw [h1, h2, List.getD_cons_succ]
    · rw [if_neg hr]
      by_cases he : k = n
      · subst he
        rw [dif_pos hk, if_pos (by omega)]
        simp
      · rw [if_neg (by omega)]
        split
        · rw [Vector.getElem_set_ne]; omega
        · rfl

theorem State.getV_loadV (s : State) (bytes : List Byte) (k : Nibble) :
    (s.loadV bytes).getV k = if k.toNat < bytes.length then bytes.getD k.toNat 0 else s.getV k := by
  unfold State.getV State.loadV
  rw [writeRegs_getElem]
  simp

/-! ## The registers as bytes to store -/

@[simp] theorem State.regsTo_length (s : State) (x : Nibble) : (s.regsTo x).length = x.toNat + 1 := by
  have := x.isLt
  simp [State.regsTo]
  omega

theorem State.regsTo_getD (s : State) (x k : Nibble) (hk : k.toNat ≤ x.toNat) :
    (s.regsTo x).getD k.toNat 0 = s.getV k := by
  have hx := x.isLt
  have hk16 : k.toNat < 16 := k.isLt
  unfold State.regsTo State.getV
  rw [List.getD_eq_getElem?_getD, List.getElem?_take_of_lt (by omega)]
  simp [hk16]

/-! ## The stack -/

/-- Everything a push can do. -/
theorem State.push_eq_some {s t : State} {w : Word} (h : s.push w = some t) :
    ∃ hs : s.sp.toNat < 16, t = { s with stack := s.stack.set s.sp.toNat w hs, sp := s.sp + 1 } := by
  unfold State.push at h
  split at h
  · next hs => exact ⟨hs, (Option.some.inj h).symm⟩
  · exact absurd h (by simp)

theorem State.push_eq_none {s : State} {w : Word} : s.push w = none ↔ 16 ≤ s.sp.toNat := by
  unfold State.push
  split <;> simp <;> omega

theorem State.sp_pred {s : State} (h : s.sp ≠ 0) : (s.sp - 1).toNat = s.sp.toNat - 1 ∧ 0 < s.sp.toNat := by
  have h0 : s.sp.toNat ≠ 0 := fun e => h (BitVec.eq_of_toNat_eq (by simpa using e))
  have := s.sp.isLt
  rw [BitVec.toNat_sub]
  simp
  omega

/-- Everything a pop can do. -/
theorem State.pop_cases (s : State) :
    (s.sp = 0 ∧ s.pop = .underflow) ∨ (16 < s.sp.toNat ∧ s.pop = .noEntry) ∨
      (∃ h : s.sp.toNat - 1 < 16, 0 < s.sp.toNat ∧
        s.pop = .popped (s.stack[s.sp.toNat - 1]'h) { s with sp := s.sp - 1 }) := by
  unfold State.pop
  by_cases h0 : s.sp = 0
  · exact .inl ⟨h0, by simp [h0]⟩
  · obtain ⟨hp, hpos⟩ := State.sp_pred h0
    rw [if_neg h0, hp]
    by_cases hs : s.sp.toNat - 1 < 16
    · exact .inr (.inr ⟨hs, hpos, by rw [Vector.getElem?_eq_getElem hs]⟩)
    · exact .inr (.inl ⟨by omega, by rw [Vector.getElem?_eq_none (by omega)]⟩)

/-! ## The keys -/

theorem State.keyDown_eq (s : State) (k : Nat) (h : k < 16) : s.keyDown k = s.keys[k] := by
  simp [State.keyDown, h]

theorem State.keyDown_lt {s : State} {k : Nat} (h : s.keyDown k = true) : k < 16 := by
  unfold State.keyDown at h
  split at h
  · assumption
  · simp at h

theorem State.lowestKey_none (s : State) : s.lowestKey = none ↔ ∀ k, s.keyDown k = false := by
  unfold State.lowestKey
  rw [List.find?_eq_none]
  constructor
  · intro h k
    by_contra hk
    have hk' : s.keyDown k = true := by simpa using hk
    exact h k (List.mem_range.2 (State.keyDown_lt hk')) hk'
  · intro h k _
    simp [h k]

theorem State.lowestKey_some (s : State) (k : Nat) :
    s.lowestKey = some k ↔ s.keyDown k = true ∧ ∀ j, j < k → s.keyDown j = false := by
  unfold State.lowestKey
  rw [List.find?_range_eq_some]
  constructor
  · rintro ⟨h1, -, h3⟩
    exact ⟨h1, fun j hj => by simpa using h3 j hj⟩
  · rintro ⟨h1, h2⟩
    exact ⟨h1, List.mem_range.2 (State.keyDown_lt h1), fun j hj => by simp [h2 j hj]⟩

end Sys2Proof.Machine
end

