-- ==== Sys2Proof/Laws/Display.lean ====
section
/-! SUPPORT. The laws of the display: what a toggle and a blit leave in a cell, which cells a sprite covers, and that it
covers none of them twice. -/

namespace Sys2Proof.Machine

@[simp] theorem Display.lit_clear (r c : Nat) : Display.clear.lit r c = false := by
  unfold Display.lit Display.clear
  split <;> simp

theorem Display.lit_toggle (fb : Display) (r c r' c' : Nat) (hr : r < 32) (hc : c < 64) :
    (fb.toggle r c).lit r' c' = if r' = r ∧ c' = c then !fb.lit r c else fb.lit r' c' := by
  unfold Display.toggle
  rw [dif_pos ⟨hr, hc⟩]
  unfold Display.lit
  by_cases h : r' < 32 ∧ c' < 64
  · rw [dif_pos h, dif_pos ⟨hr, hc⟩, dif_pos h]
    by_cases he : r' = r
    · subst he
      by_cases hk : c' = c
      · subst hk; simp
      · rw [if_neg (by simp [hk])]
        simp only [Vector.getElem_set_self, Vector.getElem_set, if_neg (Ne.symm hk)]
    · rw [if_neg (by simp [he])]
      simp only [Vector.getElem_set, if_neg (Ne.symm he)]
  · rw [dif_neg h, dif_neg h, if_neg (by rintro ⟨rfl, rfl⟩; exact h ⟨hr, hc⟩)]

theorem Display.lit_lt {fb : Display} {r c : Nat} (h : fb.lit r c = true) : r < 32 ∧ c < 64 := by
  unfold Display.lit at h
  split at h
  · assumption
  · simp at h

/-- The blit from any collision bit, over distinct cells of the grid: each is toggled once, and a hit is noted if one of
them was lit before. -/
theorem blit_from (cells : List (Nat × Nat)) (fb : Display) (hit : Bool) (hn : cells.Nodup)
    (hb : ∀ rc ∈ cells, rc.1 < 32 ∧ rc.2 < 64) :
    (∀ r c, (cells.foldl blitCell (fb, hit)).1.lit r c = (fb.lit r c ^^ decide ((r, c) ∈ cells))) ∧
      (cells.foldl blitCell (fb, hit)).2 = (hit || cells.any fun rc => fb.lit rc.1 rc.2) := by
  induction cells generalizing fb hit with
  | nil => simp
  | cons rc rest ih =>
    obtain ⟨r0, c0⟩ := rc
    obtain ⟨hnot, hn'⟩ := List.nodup_cons.1 hn
    obtain ⟨hr, hc⟩ := hb (r0, c0) (by simp)
    obtain ⟨h1, h2⟩ := ih (fb.toggle r0 c0) (hit || fb.lit r0 c0) hn' fun x hx => hb x (by simp [hx])
    constructor
    · intro r c
      rw [List.foldl_cons]
      refine (h1 r c).trans ?_
      rw [Display.lit_toggle fb r0 c0 r c hr hc]
      by_cases he : r = r0 ∧ c = c0
      · obtain ⟨rfl, rfl⟩ := he
        simp [hnot]
      · have hne : (r, c) ≠ (r0, c0) := fun e => he (by simpa using e)
        simp [he, hne]
    · rw [List.foldl_cons]
      refine h2.trans ?_
      have : (rest.any fun rc => (fb.toggle r0 c0).lit rc.1 rc.2) = rest.any fun rc => fb.lit rc.1 rc.2 := by
        rw [Bool.eq_iff_iff, List.any_eq_true, List.any_eq_true]
        refine exists_congr fun x => and_congr_right fun hx => ?_
        rw [Display.lit_toggle fb r0 c0 x.1 x.2 hr hc,
          if_neg (by rintro ⟨e1, e2⟩; exact hnot (by rw [← e1, ← e2]; exact hx))]
      rw [this]
      simp [Bool.or_assoc]

/-- What a blit over distinct cells of the grid leaves in a cell. -/
theorem blit_lit (fb : Display) (cells : List (Nat × Nat)) (hn : cells.Nodup)
    (hb : ∀ rc ∈ cells, rc.1 < 32 ∧ rc.2 < 64) (r c : Nat) :
    (blit fb cells).1.lit r c = (fb.lit r c ^^ decide ((r, c) ∈ cells)) := (blit_from cells fb false hn hb).1 r c

/-- The collision bit of a blit over distinct cells of the grid. -/
theorem blit_hit (fb : Display) (cells : List (Nat × Nat)) (hn : cells.Nodup)
    (hb : ∀ rc ∈ cells, rc.1 < 32 ∧ rc.2 < 64) :
    (blit fb cells).2 = cells.any fun rc => fb.lit rc.1 rc.2 :=
  (blit_from cells fb false hn hb).2

theorem mem_spriteRowCells {x0 r r' c' : Nat} {row : Byte} :
    (r', c') ∈ spriteRowCells x0 r row ↔
      ∃ j, j < 8 ∧ row.getLsbD (7 - j) = true ∧ r' = r % 32 ∧ c' = (x0 + j) % 64 := by
  simp only [spriteRowCells, List.mem_map, List.mem_filter, List.mem_range, Prod.mk.injEq]
  constructor
  · rintro ⟨j, ⟨h1, h2⟩, rfl, rfl⟩; exact ⟨j, h1, h2, rfl, rfl⟩
  · rintro ⟨j, h1, h2, rfl, rfl⟩; exact ⟨j, ⟨h1, h2⟩, rfl, rfl⟩

/-- The cells a sprite covers. -/
theorem mem_spriteCells {x0 y0 r c : Nat} {rows : List Byte} :
    (r, c) ∈ spriteCells x0 y0 rows ↔
      ∃ i j, i < rows.length ∧ j < 8 ∧ (rows.getD i 0).getLsbD (7 - j) = true ∧ r = (y0 + i) % 32 ∧
        c = (x0 + j) % 64 := by
  induction rows generalizing y0 with
  | nil => simp [spriteCells]
  | cons row rest ih =>
    rw [spriteCells, List.mem_append, mem_spriteRowCells, ih]
    constructor
    · rintro (⟨j, h1, h2, h3, h4⟩ | ⟨i, j, h1, h2, h3, h4, h5⟩)
      · exact ⟨0, j, by simp, h1, by simpa using h2, by simpa using h3, h4⟩
      · exact ⟨i + 1, j, by simpa using h1, h2, by simpa using h3, by rw [h4]; congr 1; omega, h5⟩
    · rintro ⟨i, j, h1, h2, h3, h4, h5⟩
      cases i with
      | zero => exact .inl ⟨j, h2, by simpa using h3, by simpa using h4, h5⟩
      | succ i =>
        exact .inr ⟨i, j, by simpa using h1, h2, by simpa using h3, by rw [h4]; congr 1; omega, h5⟩

theorem spriteCells_inGrid {x0 y0 : Nat} {rows : List Byte} :
    ∀ rc ∈ spriteCells x0 y0 rows, rc.1 < 32 ∧ rc.2 < 64 := by
  rintro ⟨r, c⟩ h
  obtain ⟨i, j, -, -, -, rfl, rfl⟩ := mem_spriteCells.1 h
  exact ⟨Nat.mod_lt _ (by omega), Nat.mod_lt _ (by omega)⟩

theorem spriteRowCells_nodup (x0 r : Nat) (row : Byte) : (spriteRowCells x0 r row).Nodup := by
  refine List.Nodup.map_on ?_ (List.nodup_range.filter _)
  intro a ha b hb h
  simp only [List.mem_filter, List.mem_range] at ha hb
  simp only [Prod.mk.injEq, true_and] at h
  omega

/-- A sprite of at most 32 rows covers no cell twice (43_display.md R142). -/
theorem spriteCells_nodup (x0 y0 : Nat) (rows : List Byte) (h : rows.length ≤ 32) :
    (spriteCells x0 y0 rows).Nodup := by
  induction rows generalizing y0 with
  | nil => simp [spriteCells]
  | cons row rest ih =>
    simp only [List.length_cons] at h
    rw [spriteCells, List.nodup_append]
    refine ⟨spriteRowCells_nodup _ _ _, ih (y0 + 1) (by omega), ?_⟩
    rintro ⟨r, c⟩ h1 ⟨r', c'⟩ h2 he
    obtain ⟨j, -, -, e1, -⟩ := mem_spriteRowCells.1 h1
    obtain ⟨i, j', hi, -, -, e2, -⟩ := mem_spriteCells.1 h2
    simp only [Prod.mk.injEq] at he
    omega

end Sys2Proof.Machine
end

