-- ==== Sys2Proof/Laws/Exec.lean ====
section
/-! SUPPORT. What the shared operations of the meanings, a cycle and a step can do, said once each. -/

namespace Sys2Proof.Machine

theorem fatal_eq (s : State) (c : FatalCause) (n : Nat) (i : Instr) :
    fatal s c n i = .next (s.raiseFatal c n (some (encodeWord i))) := rfl

/-- Everything a range-checked instruction can do: raise MemOutOfRange with the least offending address, or take its
effect. -/
theorem withRange_cases (s : State) (n : Nat) (i : Instr) (t : State) :
    ((n ≠ 0 ∧ 0x1000 < s.i.toNat + n) ∧
        withRange s n i t = .next (s.raiseFatal .memOutOfRange (max s.i.toNat 0x1000) (some (encodeWord i)))) ∨
      ((n = 0 ∨ s.i.toNat + n ≤ 0x1000) ∧ withRange s n i t = .next t) := by
  unfold withRange
  cases h : firstOutOfRange s.i.toNat n with
  | none => exact .inr ⟨firstOutOfRange_none.1 h, rfl⟩
  | some a =>
    obtain ⟨h1, rfl⟩ := firstOutOfRange_some.1 h
    exact .inl ⟨h1, rfl⟩

theorem withRange_ok {s : State} {n : Nat} (h : n = 0 ∨ s.i.toNat + n ≤ 0x1000) (i : Instr) (t : State) :
    withRange s n i t = .next t := by
  unfold withRange
  rw [firstOutOfRange_none.2 h]

/-- Everything a key-checked skip can do. -/
theorem withKey_cases (s : State) (x : Nibble) (i : Instr) (t : State) :
    (15 < (s.getV x).toNat ∧ withKey s x i t =
        .next (s.raiseFatal .keyIndexOutOfRange (s.getV x).toNat (some (encodeWord i)))) ∨
      ((s.getV x).toNat ≤ 15 ∧ withKey s x i t = .next t) := by
  unfold withKey
  by_cases h : 15 < (s.getV x).toNat
  · exact .inl ⟨h, by rw [if_pos h]; rfl⟩
  · exact .inr ⟨by omega, by rw [if_neg h]⟩

/-- Everything CALL can do. -/
theorem execCall_cases (nnn : Addr) (s : State) :
    (16 ≤ s.sp.toNat ∧
        execCall nnn s = .next (s.raiseFatal .stackOverflow s.sp.toNat (some (encodeWord (.call nnn))))) ∨
      ∃ h : s.sp.toNat < 16, execCall nnn s =
        .next { s with stack := s.stack.set s.sp.toNat (s.pc + 2) h, sp := s.sp + 1, pc := addrOperand nnn } := by
  unfold execCall
  cases h : s.push (s.pc + 2) with
  | none => exact .inl ⟨State.push_eq_none.1 h, rfl⟩
  | some t =>
    obtain ⟨hs, rfl⟩ := State.push_eq_some h
    exact .inr ⟨hs, rfl⟩

/-- Everything RET can do. -/
theorem execRet_cases (ign : Nibble) (s : State) :
    (s.sp = 0 ∧ execRet ign s = .next (s.raiseFatal .stackUnderflow 0 (some (encodeWord (.ret ign))))) ∨
      (16 < s.sp.toNat ∧ execRet ign s = .fault .stackIndexOutOfArray) ∨
      ∃ h : s.sp.toNat - 1 < 16, 0 < s.sp.toNat ∧
        execRet ign s = .next { s with sp := s.sp - 1, pc := s.stack[s.sp.toNat - 1]'h } := by
  unfold execRet
  rcases s.pop_cases with ⟨h, e⟩ | ⟨h, e⟩ | ⟨h, hp, e⟩
  · exact .inl ⟨h, by rw [e, h]; rfl⟩
  · exact .inr (.inl ⟨h, by rw [e]⟩)
  · exact .inr (.inr ⟨h, hp, by rw [e]; rfl⟩)

/-- Everything LD Vx, K can do. -/
theorem execLdVxK_cases (x : Nibble) (s : State) :
    ((∀ k, s.keyDown k = false) ∧ execLdVxK x s = .next ((s.setAwait true).advance 0)) ∨
      ∃ k, s.keyDown k = true ∧ (∀ j, j < k → s.keyDown j = false) ∧
        execLdVxK x s = .next (((s.setV x (BitVec.ofNat 8 k)).setAwait false).advance 2) := by
  unfold execLdVxK
  cases h : s.lowestKey with
  | none => exact .inl ⟨s.lowestKey_none.1 h, rfl⟩
  | some k =>
    obtain ⟨h1, h2⟩ := (s.lowestKey_some k).1 h
    exact .inr ⟨k, h1, h2, rfl⟩

/-- Everything a fetch can do. -/
theorem State.fetch_cases (s : State) :
    (0xFFE < s.pc.toNat ∧ s.fetch = .error (max s.pc.toNat 0x1000)) ∨
      (s.pc.toNat ≤ 0xFFE ∧
        s.fetch = .ok (wordOfBytes (s.mem.read s.pc.toNat) (s.mem.read (s.pc.toNat + 1)))) := by
  unfold State.fetch
  cases h : firstOutOfRange s.pc.toNat 2 with
  | none =>
    have := firstOutOfRange_none.1 h
    exact .inr ⟨by omega, rfl⟩
  | some a =>
    obtain ⟨h1, rfl⟩ := firstOutOfRange_some.1 h
    exact .inl ⟨by omega, rfl⟩

/-- Everything a cycle of a running machine can do. -/
theorem cycle_cases {s : State} (hs : s.halted = false) :
    (∃ a, s.fetch = .error a ∧ cycle s = .next (s.raiseFatal .memOutOfRange a none)) ∨
      (∃ w e, s.fetch = .ok w ∧ decodeWord w = .error e ∧
        cycle s = .next (s.raiseFatal .unknownOpcode w.toNat (some w))) ∨
      ∃ w i, s.fetch = .ok w ∧ decodeWord w = .ok i ∧ cycle s = exec i s := by
  unfold cycle
  rw [if_neg (by simp [hs])]
  cases hf : s.fetch with
  | error a => exact .inl ⟨a, rfl, rfl⟩
  | ok w =>
    cases hd : decodeWord w with
    | error e => exact .inr (.inl ⟨w, e, rfl, hd, by simp [hd]⟩)
    | ok i => exact .inr (.inr ⟨w, i, rfl, hd, by simp [hd]⟩)

theorem step_halted {s : State} (hs : s.halted = true) : step s = .next s := by
  simp [step, stepCycle, hs]

/-- Everything a step that answers a next state can do. -/
theorem step_next_cases {s t : State} (h : step s = .next t) :
    (s.halted = true ∧ t = s) ∨ (s.halted = false ∧ ∃ u, cycle s = .next u ∧ t = endCycle s.budget u) := by
  unfold step stepCycle at h
  cases hs : s.halted with
  | true =>
    rw [if_pos hs] at h
    exact .inl ⟨rfl, (Host.Outcome.next.inj h).symm⟩
  | false =>
    rw [if_neg (by simp [hs])] at h
    cases hc : cycle s with
    | next u =>
      rw [hc] at h
      exact .inr ⟨rfl, u, rfl, (Host.Outcome.next.inj h).symm⟩
    | fault r => rw [hc] at h; cases h
    | refused r => rw [hc] at h; cases h

/-- Everything that follows a cycle. -/
theorem endCycle_cases (n : Nat) (s : State) :
    (s.halted = true ∧ endCycle n s = s.setTickLeft 0) ∨
      (s.halted = false ∧ n ≤ 1 ∧ endCycle n s = (timerStep s).setTickLeft 0) ∨
      (s.halted = false ∧ 1 < n ∧ endCycle n s = s.setTickLeft (n - 1)) := by
  unfold endCycle
  cases hs : s.halted with
  | true => exact .inl ⟨rfl, by simp⟩
  | false =>
    by_cases hn : n ≤ 1
    · exact .inr (.inl ⟨rfl, hn, by simp [hn]⟩)
    · exact .inr (.inr ⟨rfl, by omega, by simp [hn]⟩)

/-- A run of one more step is a step and the rest of the run. -/
theorem run_succ (k : Nat) (s : State) :
    Sys2Proof.core.run (k + 1) s =
      match step s with
      | .next t => Sys2Proof.core.run k t
      | .fault r => .fault r
      | .refused r => .refused r := by
  have run_core : ∀ (M : Host.Core) (s : M.State), M.run (k + 1) s =
      match M.step s with
      | .next t => M.run k t
      | .fault r => .fault r
      | .refused r => .refused r := fun _ _ => rfl
  refine (run_core Sys2Proof.core s).trans ?_
  cases h : step s <;> rw [show Sys2Proof.core.step s = _ from h]

end Sys2Proof.Machine
end

