-- ==== Sys2Proof/Laws/Fields.lean ====
section
/-! SUPPORT. The fields of a word put together from its fields, format by format (30_encoding.md R71, R80). -/

namespace Sys2Proof

/-! ## Format NNN -/

@[simp] theorem opOf_nnn (c : Nibble) (a : Addr) : opOf (c ++ a) = c := by
  apply BitVec.eq_of_getLsbD_eq; intro i hi
  grind [opOf]

@[simp] theorem nnnOf_nnn (c : Nibble) (a : Addr) : nnnOf (c ++ a) = a := by
  apply BitVec.eq_of_getLsbD_eq; intro i hi
  grind [nnnOf]

@[simp] theorem nnOf_nnn (c : Nibble) (a : Addr) : nnOf (c ++ a) = a.extractLsb' 0 8 := by
  apply BitVec.eq_of_getLsbD_eq; intro i hi
  grind [nnOf]

/-! ## Format XNN, and X and Z with a fixed low byte -/

@[simp] theorem opOf_xnn (c x : Nibble) (b : Byte) : opOf (c ++ x ++ b) = c := by
  apply BitVec.eq_of_getLsbD_eq; intro i hi
  grind [opOf]

@[simp] theorem xOf_xnn (c x : Nibble) (b : Byte) : xOf (c ++ x ++ b) = x := by
  apply BitVec.eq_of_getLsbD_eq; intro i hi
  grind [xOf]

@[simp] theorem nnOf_xnn (c x : Nibble) (b : Byte) : nnOf (c ++ x ++ b) = b := by
  apply BitVec.eq_of_getLsbD_eq; intro i hi
  grind [nnOf]

/-! ## Formats XYN and XY -/

@[simp] theorem opOf_xyn (c x y n : Nibble) : opOf (c ++ x ++ y ++ n) = c := by
  apply BitVec.eq_of_getLsbD_eq; intro i hi
  grind [opOf]

@[simp] theorem xOf_xyn (c x y n : Nibble) : xOf (c ++ x ++ y ++ n) = x := by
  apply BitVec.eq_of_getLsbD_eq; intro i hi
  grind [xOf]

@[simp] theorem yOf_xyn (c x y n : Nibble) : yOf (c ++ x ++ y ++ n) = y := by
  apply BitVec.eq_of_getLsbD_eq; intro i hi
  grind [yOf]

@[simp] theorem nOf_xyn (c x y n : Nibble) : nOf (c ++ x ++ y ++ n) = n := by
  apply BitVec.eq_of_getLsbD_eq; intro i hi
  grind [nOf]

/-! ## A word is its fields -/

theorem word_eq_nnn (w : Word) : opOf w ++ nnnOf w = w := by
  apply BitVec.eq_of_getLsbD_eq; intro i hi
  grind [opOf, nnnOf]

theorem word_eq_xnn (w : Word) : opOf w ++ xOf w ++ nnOf w = w := by
  apply BitVec.eq_of_getLsbD_eq; intro i hi
  grind [opOf, xOf, nnOf]

theorem word_eq_xyn (w : Word) : opOf w ++ xOf w ++ yOf w ++ nOf w = w := by
  apply BitVec.eq_of_getLsbD_eq; intro i hi
  grind [opOf, xOf, yOf, nOf]

theorem wordOfBytes_bytesOfWord (w : Word) : wordOfBytes (w.extractLsb' 8 8) (w.extractLsb' 0 8) = w := by
  apply BitVec.eq_of_getLsbD_eq; intro i hi
  grind [wordOfBytes]

/-! ## The three masks of the opcode map (R81) -/

theorem nibble_and_ones (c : Nibble) : c &&& 0xF#4 = c := BitVec.and_allOnes

theorem byte_and_ones (b : Byte) : b &&& 0xFF#8 = b := BitVec.and_allOnes

theorem and_mask_op (w : Word) : w &&& 0xF000 = opOf w ++ 0#12 := by
  rw [← word_eq_nnn w, opOf_nnn]
  generalize opOf w = c
  generalize nnnOf w = a
  rw [show (0xF000 : Word) = 0xF#4 ++ 0#12 from rfl, BitVec.and_append]
  simp [nibble_and_ones]

theorem and_mask_op_nn (w : Word) : w &&& 0xF0FF = opOf w ++ 0#4 ++ nnOf w := by
  rw [← word_eq_xnn w, opOf_xnn, nnOf_xnn]
  generalize opOf w = c
  generalize xOf w = x
  generalize nnOf w = b
  rw [show (0xF0FF : Word) = 0xF#4 ++ 0#4 ++ 0xFF#8 from rfl, BitVec.and_append, BitVec.and_append]
  simp [nibble_and_ones, byte_and_ones]

theorem and_mask_op_n (w : Word) : w &&& 0xF00F = opOf w ++ 0#4 ++ 0#4 ++ nOf w := by
  rw [← word_eq_xyn w, opOf_xyn, nOf_xyn]
  generalize opOf w = c
  generalize xOf w = x
  generalize yOf w = y
  generalize nOf w = n
  rw [show (0xF00F : Word) = 0xF#4 ++ 0#4 ++ 0#4 ++ 0xF#4 from rfl, BitVec.and_append, BitVec.and_append,
    BitVec.and_append]
  simp [nibble_and_ones]

/-- Mask 0xF000: the row fixes the command group. -/
theorem mask_op_iff (w : Word) (c : Nibble) : w &&& 0xF000 = c ++ 0#12 ↔ opOf w = c := by
  rw [and_mask_op]
  constructor
  · intro h
    simpa using congrArg opOf h
  · rintro rfl; rfl

/-- Mask 0xF0FF: the row fixes the command group and the low byte. -/
theorem mask_op_nn_iff (w : Word) (c : Nibble) (b : Byte) :
    w &&& 0xF0FF = c ++ 0#4 ++ b ↔ opOf w = c ∧ nnOf w = b := by
  rw [and_mask_op_nn]
  constructor
  · intro h
    exact ⟨by simpa using congrArg opOf h, by simpa using congrArg nnOf h⟩
  · rintro ⟨rfl, rfl⟩; rfl

/-- Mask 0xF00F: the row fixes the command group and the low nibble. -/
theorem mask_op_n_iff (w : Word) (c n : Nibble) :
    w &&& 0xF00F = c ++ 0#4 ++ 0#4 ++ n ↔ opOf w = c ∧ nOf w = n := by
  rw [and_mask_op_n]
  constructor
  · intro h
    exact ⟨by simpa using congrArg opOf h, by simpa using congrArg nOf h⟩
  · rintro ⟨rfl, rfl⟩; rfl

end Sys2Proof
end

