-- ==== Sys2Proof/Laws/Params.lean ====
section
/-! SUPPORT. The memory and the state a reset leaves under given parameters. -/

namespace Sys2Proof.Machine

/-- The memory a reset leaves is canonical, whatever the font. -/
theorem fontMemory_wf (p : Params) : (fontMemory p.font).wf = true :=
  Memory.writeBytes_wf [] fontBase p.font rfl (by rw [p.font_length]; decide)

/-- Beside the font the reset contents are 0. -/
theorem unlistedByte_off_font {a : Nat} (h : a < 0x050 ∨ 0x0A0 ≤ a) : unlistedByte a = 0 := by
  unfold unlistedByte
  have hl : defaultFont.length = 80 := rfl
  rw [if_neg (by rw [hl]; unfold fontBase; omega)]

/-- What an address reads as after reset: the font in 0x050 to 0x09F, 0 elsewhere (10_state.md R42). -/
theorem fontMemory_read (p : Params) (a : Nat) :
    (fontMemory p.font).read a = if 0x050 ≤ a ∧ a < 0x0A0 then p.font.getD (a - 0x050) 0 else 0 := by
  unfold fontMemory
  rw [Memory.read_writeBytes [] fontBase a p.font rfl (by rw [p.font_length]; decide), p.font_length]
  by_cases h : 0x050 ≤ a ∧ a < 0x0A0
  · rw [if_pos h, if_pos (by unfold fontBase; omega)]; rfl
  · rw [if_neg h, if_neg (by unfold fontBase; omega), Memory.read_nil, unlistedByte_off_font (by omega)]

/-- The reset memory of the default parameters lists nothing. -/
theorem State.reset_mem_wf : State.reset.mem.wf = true := rfl

/-- Storing their reset contents in cells that hold them lists nothing. -/
theorem Memory.writeBytes_reset : ∀ (bytes : List Byte) (a : Nat),
    (∀ (k : Nat) (h : k < bytes.length), bytes[k] = unlistedByte (a + k)) → Memory.writeBytes [] a bytes = []
  | [], _, _ => rfl
  | b :: bs, a, h => by
    have h0 := h 0 (by simp)
    simp only [List.getElem_cons_zero, Nat.add_zero] at h0
    have hw : Memory.write [] a b = [] := by simp [Memory.write, h0]
    rw [Memory.writeBytes, hw]
    refine Memory.writeBytes_reset bs (a + 1) fun k hk => ?_
    have := h (k + 1) (by simpa using hk)
    rw [Nat.add_right_comm]; simpa [Nat.add_assoc] using this

/-- The memory a reset with the default font leaves is the one `State.reset` has. -/
theorem fontMemory_default : fontMemory defaultFont = [] := by
  refine Memory.writeBytes_reset _ _ fun k hk => ?_
  rw [unlistedByte, if_pos (by omega), Nat.add_sub_cancel_left, List.getD_eq_getElem _ _ hk]

/-! ## State.resetWith, field by field -/

@[simp] theorem State.resetWith_v (p : Params) : (State.resetWith p).v = Vector.replicate 16 0 := rfl

@[simp] theorem State.resetWith_i (p : Params) : (State.resetWith p).i = 0 := rfl

@[simp] theorem State.resetWith_pc (p : Params) : (State.resetWith p).pc = BitVec.ofNat 16 programStart := rfl

@[simp] theorem State.resetWith_sp (p : Params) : (State.resetWith p).sp = 0 := rfl

@[simp] theorem State.resetWith_stack (p : Params) : (State.resetWith p).stack = Vector.replicate 16 0 := rfl

@[simp] theorem State.resetWith_mem (p : Params) : (State.resetWith p).mem = fontMemory p.font := rfl

@[simp] theorem State.resetWith_dt (p : Params) : (State.resetWith p).dt = 0 := rfl

@[simp] theorem State.resetWith_st (p : Params) : (State.resetWith p).st = 0 := rfl

@[simp] theorem State.resetWith_fb (p : Params) : (State.resetWith p).fb = Display.clear := rfl

@[simp] theorem State.resetWith_keys (p : Params) : (State.resetWith p).keys = Vector.replicate 16 false := rfl

@[simp] theorem State.resetWith_await (p : Params) : (State.resetWith p).await = false := rfl

@[simp] theorem State.resetWith_cfg (p : Params) : (State.resetWith p).cfg = p.cfg := rfl

@[simp] theorem State.resetWith_halted (p : Params) : (State.resetWith p).halted = false := rfl

@[simp] theorem State.resetWith_fault (p : Params) : (State.resetWith p).fault = none := rfl

@[simp] theorem State.resetWith_tickLeft (p : Params) : (State.resetWith p).tickLeft = 0 := rfl

@[simp] theorem State.resetWith_draws (p : Params) : (State.resetWith p).draws = 0 := rfl

@[simp] theorem State.getV_resetWith (p : Params) (k : Nibble) : (State.resetWith p).getV k = 0 := by
  simp [State.getV]

/-! ## Reset as a transaction: the count of draws is all that is kept -/

theorem State.afterReset_eq (p : Params) (s : State) :
    State.afterReset p s = { State.resetWith p with draws := s.draws } := rfl

end Sys2Proof.Machine
end

