-- ==== Sys2Proof/Laws/PerInstr.lean ====
section
/-! SUPPORT. The statements made instruction by instruction. Family Row: the word the encoder writes for an instruction
has the bits that the instruction's row of the opcode map fixes (30_encoding.md R81). -/

namespace Sys2Proof.Laws.Row

/-- The encoded word matches the instruction's own row of the map. -/
def Statement (i : Instr) : Prop := i.row.matchesWord (encodeWord i) = true

theorem sys (nnn : Addr) : Statement (.sys nnn) :=
  beq_iff_eq.2 ((mask_op_iff _ 0x0).2 (by simp [encodeWord]))

theorem cls (ign : Nibble) : Statement (.cls ign) :=
  beq_iff_eq.2 ((mask_op_nn_iff _ 0x0 0xe0).2 (by simp [encodeWord]))

theorem ret (ign : Nibble) : Statement (.ret ign) :=
  beq_iff_eq.2 ((mask_op_nn_iff _ 0x0 0xee).2 (by simp [encodeWord]))

theorem jp (nnn : Addr) : Statement (.jp nnn) :=
  beq_iff_eq.2 ((mask_op_iff _ 0x1).2 (by simp [encodeWord]))

theorem call (nnn : Addr) : Statement (.call nnn) :=
  beq_iff_eq.2 ((mask_op_iff _ 0x2).2 (by simp [encodeWord]))

theorem seImm (x : Nibble) (nn : Byte) : Statement (.seImm x nn) :=
  beq_iff_eq.2 ((mask_op_iff _ 0x3).2 (by simp [encodeWord]))

theorem sneImm (x : Nibble) (nn : Byte) : Statement (.sneImm x nn) :=
  beq_iff_eq.2 ((mask_op_iff _ 0x4).2 (by simp [encodeWord]))

theorem seReg (x y ign : Nibble) : Statement (.seReg x y ign) :=
  beq_iff_eq.2 ((mask_op_iff _ 0x5).2 (by simp [encodeWord]))

theorem ldImm (x : Nibble) (nn : Byte) : Statement (.ldImm x nn) :=
  beq_iff_eq.2 ((mask_op_iff _ 0x6).2 (by simp [encodeWord]))

theorem addImm (x : Nibble) (nn : Byte) : Statement (.addImm x nn) :=
  beq_iff_eq.2 ((mask_op_iff _ 0x7).2 (by simp [encodeWord]))

theorem ldReg (x y : Nibble) : Statement (.ldReg x y) :=
  beq_iff_eq.2 ((mask_op_n_iff _ 0x8 0x0).2 (by simp [encodeWord]))

theorem orReg (x y : Nibble) : Statement (.orReg x y) :=
  beq_iff_eq.2 ((mask_op_n_iff _ 0x8 0x1).2 (by simp [encodeWord]))

theorem andReg (x y : Nibble) : Statement (.andReg x y) :=
  beq_iff_eq.2 ((mask_op_n_iff _ 0x8 0x2).2 (by simp [encodeWord]))

theorem xorReg (x y : Nibble) : Statement (.xorReg x y) :=
  beq_iff_eq.2 ((mask_op_n_iff _ 0x8 0x3).2 (by simp [encodeWord]))

theorem addReg (x y : Nibble) : Statement (.addReg x y) :=
  beq_iff_eq.2 ((mask_op_n_iff _ 0x8 0x4).2 (by simp [encodeWord]))

theorem sub (x y : Nibble) : Statement (.sub x y) :=
  beq_iff_eq.2 ((mask_op_n_iff _ 0x8 0x5).2 (by simp [encodeWord]))

theorem shr (x y : Nibble) : Statement (.shr x y) :=
  beq_iff_eq.2 ((mask_op_n_iff _ 0x8 0x6).2 (by simp [encodeWord]))

theorem subn (x y : Nibble) : Statement (.subn x y) :=
  beq_iff_eq.2 ((mask_op_n_iff _ 0x8 0x7).2 (by simp [encodeWord]))

theorem shl (x y : Nibble) : Statement (.shl x y) :=
  beq_iff_eq.2 ((mask_op_n_iff _ 0x8 0xe).2 (by simp [encodeWord]))

theorem sneReg (x y ign : Nibble) : Statement (.sneReg x y ign) :=
  beq_iff_eq.2 ((mask_op_iff _ 0x9).2 (by simp [encodeWord]))

theorem ldI (nnn : Addr) : Statement (.ldI nnn) :=
  beq_iff_eq.2 ((mask_op_iff _ 0xa).2 (by simp [encodeWord]))

theorem jpV0 (nnn : Addr) : Statement (.jpV0 nnn) :=
  beq_iff_eq.2 ((mask_op_iff _ 0xb).2 (by simp [encodeWord]))

theorem rnd (x : Nibble) (nn : Byte) : Statement (.rnd x nn) :=
  beq_iff_eq.2 ((mask_op_iff _ 0xc).2 (by simp [encodeWord]))

theorem drw (x y n : Nibble) : Statement (.drw x y n) :=
  beq_iff_eq.2 ((mask_op_iff _ 0xd).2 (by simp [encodeWord]))

theorem skp (x : Nibble) : Statement (.skp x) :=
  beq_iff_eq.2 ((mask_op_nn_iff _ 0xe 0x9e).2 (by simp [encodeWord]))

theorem sknp (x : Nibble) : Statement (.sknp x) :=
  beq_iff_eq.2 ((mask_op_nn_iff _ 0xe 0xa1).2 (by simp [encodeWord]))

theorem ldVxDt (x : Nibble) : Statement (.ldVxDt x) :=
  beq_iff_eq.2 ((mask_op_nn_iff _ 0xf 0x7).2 (by simp [encodeWord]))

theorem ldVxK (x : Nibble) : Statement (.ldVxK x) :=
  beq_iff_eq.2 ((mask_op_nn_iff _ 0xf 0xa).2 (by simp [encodeWord]))

theorem ldDtVx (x : Nibble) : Statement (.ldDtVx x) :=
  beq_iff_eq.2 ((mask_op_nn_iff _ 0xf 0x15).2 (by simp [encodeWord]))

theorem ldStVx (x : Nibble) : Statement (.ldStVx x) :=
  beq_iff_eq.2 ((mask_op_nn_iff _ 0xf 0x18).2 (by simp [encodeWord]))

theorem addI (x : Nibble) : Statement (.addI x) :=
  beq_iff_eq.2 ((mask_op_nn_iff _ 0xf 0x1e).2 (by simp [encodeWord]))

theorem ldF (x : Nibble) : Statement (.ldF x) :=
  beq_iff_eq.2 ((mask_op_nn_iff _ 0xf 0x29).2 (by simp [encodeWord]))

theorem ldB (x : Nibble) : Statement (.ldB x) :=
  beq_iff_eq.2 ((mask_op_nn_iff _ 0xf 0x33).2 (by simp [encodeWord]))

theorem storeRegs (x : Nibble) : Statement (.storeRegs x) :=
  beq_iff_eq.2 ((mask_op_nn_iff _ 0xf 0x55).2 (by simp [encodeWord]))

theorem loadRegs (x : Nibble) : Statement (.loadRegs x) :=
  beq_iff_eq.2 ((mask_op_nn_iff _ 0xf 0x65).2 (by simp [encodeWord]))

end Sys2Proof.Laws.Row
end

