-- ==== Sys2Proof/Tests/Slice0.lean ====
section
/-! SUPPORT. The model's own tests: the well-formedness checks, the decoding of words written out from the encodings of
30_encoding.md R80 and R81, one step for each instruction with the result a vector of 95_test_vectors.md gives (named
in the comment), and a witness that meets the hypotheses of each statement that has any. -/

set_option maxRecDepth 8000

namespace Sys2Proof.Tests

open Sys2Proof.Machine

/-! ## Small states -/

/-- The state after one step that runs the word `w` at the `pc` of `s`. -/
def after (w : Nat) (s : State) : State :=
  match step (s.withFetchWord 16 w) with
  | .next t => t
  | .fault _ => s
  | .refused _ => s

/-- What an outcome answers, or a given state. -/
def nextOr (d : State) : Host.Outcome State Fault Refusal → State
  | .next t => t
  | .fault _ => d
  | .refused _ => d

/-- The outcome is a next state. -/
def isNext : Host.Outcome State Fault Refusal → Bool
  | .next _ => true
  | .fault _ => false
  | .refused _ => false

/-- The outcome is the fault of the model's own. -/
def isFault : Host.Outcome State Fault Refusal → Bool
  | .next _ => false
  | .fault .stackIndexOutOfArray => true
  | .refused _ => false

def s0 : State := State.reset
def sVf : State := State.resetFrom ⟨true, false, false, false, 10⟩ []
def sMem : State := State.resetFrom ⟨false, true, false, false, 10⟩ []
def sShift : State := State.resetFrom ⟨false, false, true, false, 10⟩ []
def sJump : State := State.resetFrom ⟨false, false, false, true, 10⟩ []
def sOne : State := State.resetFrom ⟨false, false, false, false, 1⟩ []

/-- A state with a stack pointer. -/
def withSp (s : State) (n : Word) : State := { s with sp := n }

/-- A state with one byte of memory written. -/
def withByte (s : State) (a : Nat) (b : Byte) : State := s.setMem (s.mem.write a b)

/-- A state with one cell of the display turned over. -/
def withCell (s : State) (r c : Nat) : State := s.setFb (s.fb.toggle r c)

/-- The fatal condition a state records, without the place it was taken at. -/
def cause (s : State) : Option (FatalCause × Nat) := s.fault.map fun r => (r.cause, r.info)

/-! ## Well-formedness: R76, R77 give the low bytes E0 and EE to CLS and RET -/

theorem test_wf_sys : (Instr.sys 0x0E1).wellFormed = true := by decide
theorem test_wf_sys_refuses_cls : (Instr.sys 0x0E0).wellFormed = false := by decide
theorem test_wf_sys_refuses_ret : (Instr.sys 0x1EE).wellFormed = false := by decide

/-! ## Decoding: words written out from R80 and R81 -/

/-- The instruction a word decodes to. -/
def dec (w : Word) : Option Instr :=
  match decodeWord w with
  | .ok i => some i
  | .error _ => none

theorem test_decode_flow : dec 0b0000000100100011 = some (.sys 0x123) ∧
    dec 0b0000000011101110 = some (.ret 0) ∧
    dec 0b0000011111101110 = some (.ret 7) ∧
    dec 0b0001101010111100 = some (.jp 0xABC) ∧
    dec 0b0010001000001010 = some (.call 0x20A) ∧
    dec 0b1011001100000000 = some (.jpV0 0x300) := by decide

theorem test_decode_skip : dec 0b0011101001000010 = some (.seImm 0xA 0x42) ∧
    dec 0b0100101001000011 = some (.sneImm 0xA 0x43) ∧
    dec 0b0101000100100000 = some (.seReg 1 2 0) ∧
    dec 0b0101000100101111 = some (.seReg 1 2 0xF) ∧
    dec 0b1001000100100001 = some (.sneReg 1 2 1) := by decide

theorem test_decode_load : dec 0b0110111100010010 = some (.ldImm 0xF 0x12) ∧
    dec 0b0111000011111111 = some (.addImm 0 0xFF) ∧
    dec 0b1000101010110000 = some (.ldReg 0xA 0xB) ∧
    dec 0b1100000000001111 = some (.rnd 0 0x0F) := by decide

theorem test_decode_logic : dec 0b1000001101000001 = some (.orReg 3 4) ∧
    dec 0b1000001101000010 = some (.andReg 3 4) ∧
    dec 0b1000001101000011 = some (.xorReg 3 4) := by decide

theorem test_decode_arith : dec 0b1000001101000100 = some (.addReg 3 4) ∧
    dec 0b1000001101000101 = some (.sub 3 4) ∧
    dec 0b1000001101000110 = some (.shr 3 4) ∧
    dec 0b1000001101000111 = some (.subn 3 4) ∧
    dec 0b1000001101001110 = some (.shl 3 4) := by decide

theorem test_decode_display : dec 0b0000000011100000 = some (.cls 0) ∧
    dec 0b0000010111100000 = some (.cls 5) ∧
    dec 0b1101000100100101 = some (.drw 1 2 5) := by decide

theorem test_decode_keys : dec 0b1110001010011110 = some (.skp 2) ∧
    dec 0b1110001010100001 = some (.sknp 2) ∧
    dec 0b1111000100001010 = some (.ldVxK 1) := by decide

theorem test_decode_timers : dec 0b1111001100000111 = some (.ldVxDt 3) ∧
    dec 0b1111001100010101 = some (.ldDtVx 3) ∧
    dec 0b1111001100011000 = some (.ldStVx 3) := by decide

theorem test_decode_index : dec 0b1010111111111111 = some (.ldI 0xFFF) ∧
    dec 0b1111001000011110 = some (.addI 2) ∧
    dec 0b1111101000101001 = some (.ldF 0xA) ∧
    dec 0b1111000000110011 = some (.ldB 0) ∧
    dec 0b1111000101010101 = some (.storeRegs 1) ∧
    dec 0b1111001001100101 = some (.loadRegs 2) := by decide

theorem test_decode_unknown : decodeWord 0x8008 = .error (.unknownOpcode 0x8008) ∧
    decodeWord 0x800F = .error (.unknownOpcode 0x800F) ∧ decodeWord 0xE000 = .error (.unknownOpcode 0xE000) ∧
    decodeWord 0xE19F = .error (.unknownOpcode 0xE19F) ∧ decodeWord 0xF0FF = .error (.unknownOpcode 0xF0FF) ∧
    decodeWord 0xF01F = .error (.unknownOpcode 0xF01F) := by decide
theorem test_decode_truncated : decode [0x12] = .error .truncated ∧ decode [] = .error .truncated := by decide
theorem test_decode_table_word : decodeTableWord 16 0x8AB4 = some (.addReg 0xA 0xB) ∧
    decodeTableWord 16 0x8008 = none := by decide

/-! ## One step an instruction -/

/-- T2. -/
theorem test_sys : let t := after 0x0123 s0; cause t = some (.unknownOpcode, 0x0123) ∧ t.pc = 0x200 := by decide
/-- T6. -/
theorem test_ret : let t := after 0x00EE ({ s0.jump 0x400 with sp := 16, stack := s0.stack.set 15 0xFFF })
    t.pc = 0xFFF ∧ t.sp = 15 := by decide
/-- T4. -/
theorem test_ret_empty : let t := after 0x00EE s0; cause t = some (.stackUnderflow, 0) ∧ t.pc = 0x200 := by decide
/-- T7. -/
theorem test_jp : let t := after 0x1ABC s0; t.pc = 0xABC := by decide
/-- T11. -/
theorem test_call : let t := after 0x2300 (withSp (s0.jump 0x2FE) 15)
    t.pc = 0x300 ∧ t.sp = 16 ∧ t.stack[15] = 0x300 := by decide
/-- T12. -/
theorem test_call_full : let t := after 0x2300 (withSp s0 16)
    cause t = some (.stackOverflow, 16) ∧ t.sp = 16 ∧ t.pc = 0x200 := by decide
/-- T16. -/
theorem test_jpV0 : let t := after 0xBFFF (s0.setV 0 0xFF); t.pc = 0x10FE := by decide
/-- T15. -/
theorem test_jpV0_jumping : let t := after 0xB300 ((sJump.setV 0 0x10).setV 3 0x20); t.pc = 0x320 := by decide
/-- T20. -/
theorem test_seImm : let t := after 0x3A42 (s0.setV 0xA 0x42); t.pc = 0x204 := by decide
/-- T21. -/
theorem test_seImm_no : let t := after 0x3A42 (s0.setV 0xA 0x43); t.pc = 0x202 := by decide
/-- T22. -/
theorem test_sneImm : let t := after 0x4A42 (s0.setV 0xA 0x42); t.pc = 0x202 := by decide
/-- T33. -/
theorem test_sneImm_top : let t := after 0x4000 (s0.jump 0xFFE); t.pc = 0x1000 := by decide
/-- T26. -/
theorem test_seReg : let t := after 0x512F ((s0.setV 1 7).setV 2 7); t.pc = 0x204 := by decide
/-- T25. -/
theorem test_seReg_no : let t := after 0x5120 ((s0.setV 1 7).setV 2 8); t.pc = 0x202 := by decide
/-- T28. -/
theorem test_sneReg : let t := after 0x9120 ((s0.setV 1 7).setV 2 7); t.pc = 0x202 := by decide
/-- T30. -/
theorem test_sneReg_yes : let t := after 0x9121 ((s0.setV 1 7).setV 2 8); t.pc = 0x204 := by decide
/-- T40. -/
theorem test_ldImm : let t := after 0x6F12 s0; t.getV 15 = 0x12 ∧ t.pc = 0x202 := by decide
/-- T41. -/
theorem test_addImm : let t := after 0x70FF (s0.setV 0 0x02); t.getV 0 = 0x01 ∧ t.getV 15 = 0 := by decide
/-- T42. -/
theorem test_addImm_flag : let t := after 0x7F01 (s0.setV 15 0xFF); t.getV 15 = 0 := by decide
/-- T43. -/
theorem test_ldReg : let t := after 0x8AB0 (s0.setV 0xB 0x5A); t.getV 0xA = 0x5A ∧ t.getV 0xB = 0x5A := by decide
/-- T44. -/
theorem test_orReg : let t := after 0x8011 (((s0.setV 0 0xF0).setV 1 0x0F).setV 15 1)
    t.getV 0 = 0xFF ∧ t.getV 15 = 1 := by decide
/-- T46. -/
theorem test_orReg_vfReset : let t := after 0x8F11 ((sVf.setV 15 0xF0).setV 1 0x0F); t.getV 15 = 0 := by decide
/-- T48. -/
theorem test_andReg : let t := after 0x8012 (((s0.setV 0 0xFC).setV 1 0x3F).setV 15 7)
    t.getV 0 = 0x3C ∧ t.getV 15 = 7 := by decide
/-- T49. -/
theorem test_andReg_vfReset : let t := after 0x80F2 ((sVf.setV 0 0xFF).setV 15 0x3C)
    t.getV 0 = 0x3C ∧ t.getV 15 = 0 := by decide
/-- T50. -/
theorem test_xorReg : let t := after 0x8013 ((s0.setV 0 0xFF).setV 1 0x0F); t.getV 0 = 0xF0 := by decide
/-- T51. -/
theorem test_xorReg_vfReset : let t := after 0x8003 ((sVf.setV 0 0xAA).setV 15 9)
    t.getV 0 = 0 ∧ t.getV 15 = 0 := by decide
/-- T53. -/
theorem test_addReg : let t := after 0x8014 (((s0.setV 0 0x80).setV 1 0x7F).setV 15 1)
    t.getV 0 = 0xFF ∧ t.getV 15 = 0 := by decide
/-- T55. -/
theorem test_addReg_flag : let t := after 0x8F14 ((s0.setV 15 0xF0).setV 1 0x20); t.getV 15 = 1 := by decide
/-- T60. -/
theorem test_sub : let t := after 0x8015 ((s0.setV 0 7).setV 1 7); t.getV 0 = 0 ∧ t.getV 15 = 1 := by decide
/-- T59. -/
theorem test_sub_borrow : let t := after 0x8015 ((s0.setV 0 5).setV 1 7)
    t.getV 0 = 0xFE ∧ t.getV 15 = 0 := by decide
/-- T68. -/
theorem test_shr : let t := after 0x8016 ((s0.setV 0 5).setV 1 8)
    t.getV 0 = 4 ∧ t.getV 15 = 0 ∧ t.getV 1 = 8 := by decide
/-- T71. -/
theorem test_shr_shifting : let t := after 0x8F16 (sShift.setV 15 0xFF); t.getV 15 = 1 := by decide
/-- T66. -/
theorem test_subn : let t := after 0x8017 ((s0.setV 0 7).setV 1 5); t.getV 0 = 0xFE ∧ t.getV 15 = 0 := by decide
/-- T67. -/
theorem test_subn_flag : let t := after 0x80F7 ((s0.setV 0 1).setV 15 1); t.getV 0 = 0 ∧ t.getV 15 = 1 := by decide
/-- T73. -/
theorem test_shl : let t := after 0x801E ((s0.setV 0 0x81).setV 1 0x40); t.getV 0 = 0x80 ∧ t.getV 15 = 0 := by decide
/-- T74. -/
theorem test_shl_shifting : let t := after 0x801E ((sShift.setV 0 0x81).setV 1 0x40)
    t.getV 0 = 2 ∧ t.getV 15 = 1 := by decide
/-- T78, the part of it that is fixed. -/
theorem test_rnd : let t := after 0xCFFF s0; t.pc = 0x202 ∧ t.draws = 1 ∧ t.getV 0 = 0 := by decide
/-- T81. -/
theorem test_cls : let t := after 0x05E0 (withCell (s0.setV 15 1) 5 5)
    t.fb = Display.clear ∧ t.getV 15 = 1 ∧ t.pc = 0x202 := by decide
/-- T82. -/
theorem test_drw_wraps : let t := after 0xD012 ({ withByte (withByte ((s0.setV 0 0x3C).setV 1 0x1F) 0x300 0xF0) 0x301 0x81 with i := 0x300 })
    t.fb.lit 31 60 = true ∧ t.fb.lit 31 63 = true ∧ t.fb.lit 0 60 = true ∧ t.fb.lit 0 3 = true ∧ t.fb.lit 0 61 = false ∧ t.getV 15 = 0 := by decide
/-- T84. -/
theorem test_drw_hits : let t := after 0xD011 ({ withCell (withByte s0 0x300 0xC0) 0 1 with i := 0x300 })
    t.fb.lit 0 0 = true ∧ t.fb.lit 0 1 = false ∧ t.getV 15 = 1 := by decide
/-- T100. -/
theorem test_skp : let t := after 0xE29E ((s0.setV 2 0x0A).setKey 0xA true); t.pc = 0x204 := by decide
/-- T102. -/
theorem test_skp_no_key : let t := after 0xE29E ((s0.setV 2 0x10).setKey 0 true)
    cause t = some (.keyIndexOutOfRange, 16) ∧ t.pc = 0x200 := by decide
/-- T103. -/
theorem test_sknp : let t := after 0xE2A1 ((s0.setV 2 0x0A).setKey 0xA true); t.pc = 0x202 := by decide
/-- T105. -/
theorem test_sknp_no_key : let t := after 0xE2A1 (s0.setV 2 0xFF)
    cause t = some (.keyIndexOutOfRange, 255) := by decide
/-- T106. -/
theorem test_ldVxK : let t := after 0xF00A ((s0.setKey 3 true).setKey 9 true)
    t.getV 0 = 3 ∧ t.pc = 0x202 ∧ t.await = false := by decide
/-- T107. -/
theorem test_ldVxK_waits : let t := after 0xF00A (s0.setV 0 0x77)
    t.getV 0 = 0x77 ∧ t.pc = 0x200 ∧ t.await = true := by decide
/-- T109. -/
theorem test_ldVxDt : let t := after 0xF307 (s0.setDt 42); t.getV 3 = 0x2A ∧ t.dt = 42 := by decide
/-- T110. -/
theorem test_ldDtVx : let t := after 0xF315 (s0.setV 3 0xFF); t.dt = 255 ∧ t.st = 0 := by decide
/-- T111. -/
theorem test_ldStVx : let t := after 0xF318 (s0.setV 3 1); t.st = 1 ∧ t.dt = 0 := by decide
/-- T120. -/
theorem test_ldI : let t := after 0xAFFF s0; t.i = 0xFFF ∧ t.pc = 0x202 := by decide
/-- T123. -/
theorem test_addI : let t := after 0xF21E ((s0.setV 2 1).setI 0xFFFF); t.i = 0 ∧ t.getV 15 = 0 := by decide
/-- T124. -/
theorem test_addI_past_memory : let t := after 0xFF1E ((s0.setV 15 0x20).setI 0xFF0)
    t.i = 0x1010 ∧ t.getV 15 = 0x20 := by decide
/-- T126. -/
theorem test_ldF : let t := after 0xFA29 (s0.setV 0xA 0x1A); t.i = 0x082 := by decide
/-- T127. -/
theorem test_ldF_last : let t := after 0xFA29 (s0.setV 0xA 0xFF); t.i = 0x09B := by decide
/-- T130. -/
theorem test_ldB : let t := after 0xF033 ((s0.setV 0 0x6D).setI 0xFFD)
    t.mem.readBytes 0xFFD 3 = [1, 0, 9] ∧ t.i = 0xFFD := by decide
/-- T131. -/
theorem test_ldB_past_memory : let t := after 0xF033 ((s0.setV 0 0x6D).setI 0xFFE)
    cause t = some (.memOutOfRange, 0x1000) ∧ t.mem.readBytes 0xFFE 2 = [0, 0] := by decide
/-- T133. -/
theorem test_storeRegs : let t := after 0xF155 ((((s0.setV 0 0x11).setV 1 0x22).setV 2 0x33).setI 0x400)
    t.mem.readBytes 0x400 3 = [0x11, 0x22, 0] ∧ t.i = 0x400 := by decide
/-- T135. -/
theorem test_storeRegs_memory : let t := after 0xF055 ((sMem.setV 0 0xAB).setI 0xFFF)
    t.mem.read 0xFFF = 0xAB ∧ t.i = 0x1000 := by decide
/-- T138. -/
theorem test_loadRegs : let t := after 0xF265 (sMem.setI 0x050)
    t.getV 0 = 0xF0 ∧ t.getV 1 = 0x90 ∧ t.getV 2 = 0x90 ∧ t.getV 3 = 0 ∧ t.i = 0x053 := by decide
/-- T140. -/
theorem test_loadRegs_past_memory : let t := after 0xFF65 (s0.setI 0xFF1)
    cause t = some (.memOutOfRange, 0x1000) ∧ t.v = s0.v := by decide

/-! ## The cycle, the tick and the host -/

/-- T150, T151: a fetch that finds no byte. -/
theorem test_fetch_fault : (cycle (s0.jump 0xFFF) = .next ((s0.jump 0xFFF).raiseFatal .memOutOfRange 0x1000 none)) ∧
    cause (nextOr s0 (cycle (s0.jump 0xFFFF))) = some (.memOutOfRange, 0xFFFF) := ⟨rfl, by decide⟩

/-- T152: the last address an instruction can be fetched from. -/
theorem test_fetch_last : let t := after 0x6001 (s0.jump 0xFFE); t.pc = 0x1000 ∧ t.getV 0 = 1 := by decide

/-- T160: an odd address. -/
theorem test_fetch_odd : (after 0x1300 (s0.jump 0x201)).pc = 0x300 := by decide

/-- R212, R213: the last cycle of a tick is followed by the timer step, an earlier one is not. -/
theorem test_timer_step : (after 0x1200 (sOne.setDt 1)).dt = 0 ∧ (after 0x1200 (s0.setDt 1)).dt = 1 ∧
    (after 0x1200 sOne).tickLeft = 0 ∧ (after 0x1200 s0).tickLeft = 9 := by decide

/-- R204: the fatal condition of a tick of one cycle is followed by no timer step. -/
theorem test_fatal_no_timer_step : let t := after 0x8008 (sOne.setDt 1); t.dt = 1 ∧ t.halted = true ∧ t.tickLeft = 0 := by
  decide

/-- R239: the budget is clamped. -/
theorem test_clamp : clampCycles (-5) = 1 ∧ clampCycles 0 = 1 ∧ clampCycles 1 = 1 ∧ clampCycles 700 = 700 := by decide

/-- R42: what is in memory after reset. -/
theorem test_reset_memory : s0.mem.read 0x04F = 0 ∧ s0.mem.read 0x050 = 0xF0 ∧ s0.mem.read 0x09F = 0x80 ∧
    s0.mem.read 0x0A0 = 0 := by decide

/-- A machine whose font is zeros, with the smaller program end of vector H4 and another configuration. -/
def pOther : Params where
  font := List.replicate 80 0
  programEnd := 0xEA0
  cfg := ⟨true, true, true, true, 7⟩
  font_length := rfl
  programEnd_gt := by decide
  programEnd_le := by decide
  cycles_pos := by decide

/-- R9, R42: the parameters reach the state a reset leaves. -/
theorem test_reset_parameters : let t := State.resetWith pOther
    t.mem.read 0x050 = 0 ∧ t.mem.read 0x09F = 0 ∧ t.mem.wf = true ∧ t.cfg.cyclesPerTick = 7 ∧ t.pc = 0x200 := by decide

/-- H4: the capacity follows the program end. -/
theorem test_load_capacity : (State.load pOther s0 (List.replicate 3232 1)).isSome = true ∧
    State.load pOther s0 (List.replicate 3233 1) = none := by
  refine ⟨?_, if_neg ?_⟩
  · rw [State.load, if_pos (by rw [List.length_replicate]; decide)]; rfl
  · rw [List.length_replicate]; decide

/-- R29: writing the reset contents back removes the cell. -/
theorem test_memory_canonical : ((s0.mem.write 0x300 7).write 0x050 1) = [(0x050, 1), (0x300, 7)] ∧
    ((s0.mem.write 0x300 7).write 0x300 0) = [] ∧ ((s0.mem.write 0x050 1).write 0x050 0xF0) = [] := by decide

/-! ## Witnesses: each hypothesis of each statement is met -/
/-- The premise of `Encodes`, for every row of the map: the match value of the row is such a word. -/
theorem test_witness_Encodes : opcodeMap.length = 35 ∧
    ∀ r ∈ opcodeMap, r.pattern &&& r.mask = r.pattern ∧ slotByMap r.pattern = some r.slot := by decide

theorem test_witness_DecodeOfEncode : (Instr.sys 0xFFF).WellFormed ∧ (Instr.seReg 0xF 0 0xF).WellFormed := by decide

theorem test_witness_EncodeOfDecode : decodeWord 0x512F = .ok (.seReg 1 2 0xF) := by decide

theorem test_witness_StepRunsDecodedInstruction :
    let s := (s0.jump 0xFFE).storeAtPc 0x6001
    (s.halted = false ∧ s.pc.toNat ≤ 0xFFE ∧ (Instr.ldImm 0 1).WellFormed ∧
      decode (s.mem.readBytes s.pc.toNat 2) = .ok (.ldImm 0 1, [])) ∧
    (s0.raiseFatal .unknownOpcode 0 none).halted = true ∧ s0.halted = false := by decide

theorem test_witness_FetchReadsTheHighByteFirst : (s0.jump 0xFFE).pc.toNat ≤ 0xFFE ∧ s0.mem.wf = true := by decide

theorem test_witness_CycleFatalConditions :
    ((s0.jump 0xFFF).halted = false ∧ 0xFFE < (s0.jump 0xFFF).pc.toNat) ∧
    let s := (s0.jump 0xFFE).storeAtPc 0x8008
    s.halted = false ∧ s.pc.toNat ≤ 0xFFE ∧ s.mem.readBytes s.pc.toNat 2 = bytesOfWord 0x8008 ∧
      decodeWord 0x8008 = .error (.unknownOpcode 0x8008) := by decide

theorem test_witness_HaltedMachineStays : (s0.raiseFatal .unknownOpcode 0 none).halted = true := by decide

theorem test_witness_HandlerFatalIsPrecise : s0.halted = false ∧ isNext (exec (.ret 0) s0) = true ∧
    (nextOr s0 (exec (.ret 0) s0)).halted = true := by decide

theorem test_witness_OtherInstructionsNeverFault : (Instr.jp 0xFFF).mayFault = false ∧ (Instr.rnd 15 0).mayFault = false := by
  decide

theorem test_witness_SysTakesUnknownOpcode : (0x0FFF : Word) &&& 0xF000 = 0x0000 ∧ nnOf 0x0FFF ≠ 0xE0 ∧ nnOf 0x0FFF ≠ 0xEE := by
  decide

theorem test_witness_StackAndKeyBoundsAreFatal : 16 ≤ (withSp s0 16).sp.toNat ∧ s0.sp.toNat = 0 ∧
    15 < ((s0.setV 2 16).getV 2).toNat := by decide

/-- One address past the end, for each of the four. -/
theorem test_witness_MemoryRangeIsFatal :
    ((2 : Nibble) ≠ 0 ∧ 0xFFF < (s0.setI 0xFFF).i.toNat + ((2 : Nibble).toNat - 1)) ∧
    0xFFF < (s0.setI 0xFFE).i.toNat + 2 ∧ 0xFFF < (s0.setI 0xFF1).i.toNat + (15 : Nibble).toNat := by decide

theorem test_witness_StepKeepsInvariant : (withSp s0 16).Inv ∧ isNext (step (withSp s0 16)) = true := by decide

theorem test_witness_StepAnswersNextState : (withSp s0 16).Inv := by decide

theorem test_witness_HostMovesKeepInvariant : (withSp s0 1).Inv ∧
    ∃ t r, hostAct pOther (.load [1, 2]) (withSp s0 1) = .next (t, r) := ⟨by decide, _, _, rfl⟩

theorem test_witness_ResetLeavesTheStartState : (s0.raiseFatal .unknownOpcode 0 none).tickLeft = 0 := by decide

theorem test_witness_CanonicalMemoryIsItsReads : Memory.wf [(0x300, 1), (0xFFF, 2)] = true := by decide

theorem test_witness_RegistersChangeOnlyByTheirWriters : isNext (exec (.addReg 1 2) s0) = true ∧
    (Instr.addReg 1 2).writesV s0.cfg 14 = false ∧ (Instr.loadRegs 3).writesV s0.cfg 4 = false ∧
    (Instr.orReg 1 2).writesV s0.cfg 15 = false := by decide

theorem test_witness_IndexChangesOnlyByItsWriters : isNext (exec (.storeRegs 1) s0) = true ∧
    (Instr.storeRegs 1).writesI s0.cfg = false := by decide

theorem test_witness_MemoryChangesOnlyByTheTwoStores : s0.mem.wf = true ∧
    (nextOr s0 (exec (.ldB 0) ((s0.setV 0 5).setI 0xFFD))).mem.read 0xFFF ≠ s0.mem.read 0xFFF ∧
    (nextOr s0 (exec (.storeRegs 15) ((s0.setV 15 5).setI 0xFF0))).mem.read 0xFFF ≠ s0.mem.read 0xFFF := by decide

theorem test_witness_OtherStateChangesOnlyByItsWriters :
    (nextOr s0 (exec (.call 0x300) s0)).stack ≠ s0.stack ∧ (nextOr s0 (exec (.call 0x300) s0)).sp ≠ s0.sp ∧
    (nextOr s0 (exec (.ldDtVx 1) (s0.setV 1 9))).dt ≠ s0.dt ∧
    (nextOr s0 (exec (.ldStVx 1) (s0.setV 1 9))).st ≠ s0.st ∧
    (nextOr s0 (exec (.cls 0) (withCell s0 0 0))).fb ≠ (withCell s0 0 0).fb ∧
    (nextOr s0 (exec (.ldVxK 0) s0)).await ≠ s0.await := by decide

/-- One instruction for each arm of the list. -/
theorem test_witness_EachInstructionAdvancesAsListed : s0.halted = false ∧
    (nextOr s0 (exec (.jp 0xFFF) s0)).halted = false ∧ (nextOr s0 (exec (.call 0xFFF) s0)).halted = false ∧
    (nextOr s0 (exec (.ret 0) (withSp s0 16))).halted = false ∧ (nextOr s0 (exec (.jpV0 0xFFF) s0)).halted = false ∧
    (nextOr s0 (exec (.ldVxK 0) s0)).halted = false ∧ (s0.setKey 15 true).keys[15] = true ∧
    (nextOr s0 (exec (.skp 0) (s0.setV 0 15))).halted = false ∧
    (nextOr s0 (exec (.storeRegs 15) (s0.setI 0xFF0))).halted = false := by decide

theorem test_witness_RunKeepsKeysAndConfig : isNext (Sys2Proof.core.run 1 s0) = true := by decide

theorem test_witness_JpGoesToItsAddress : s0.pc.toNat = (0x200 : Addr).toNat ∧ (0xFFF : Addr).toNat = 0xFFF := by decide

theorem test_witness_RetRestoresTheTopEntry : (1 ≤ (withSp s0 1).sp.toNat ∧ (withSp s0 1).sp.toNat ≤ 16) ∧
    1 ≤ (withSp s0 16).sp.toNat ∧ (withSp s0 16).sp.toNat ≤ 16 := by decide

theorem test_witness_CallPushesTheNextAddress : s0.sp.toNat < 16 ∧ (withSp s0 15).sp.toNat < 16 := by decide

theorem test_witness_RetAfterCallGoesOnBehindIt : (withSp s0 15).sp.toNat < 16 ∧
    let t := nextOr s0 (exec (.call 0x300) (withSp s0 15))
    (t.setV 0 7).stack = t.stack ∧ (t.setV 0 7).sp = t.sp := by decide

theorem test_witness_JpV0AddsTheSelectedRegister : sJump.cfg.jumping = true ∧ s0.cfg.jumping = false := by decide

/-- No rows, and the most rows that end at 0xFFF; a cell that is lit under the sprite, and none. -/
theorem test_witness_DrwBlitsTheSprite :
    ((0 : Nibble) = 0 ∨ (s0.setI 0xFFFF).i.toNat + ((0 : Nibble).toNat - 1) ≤ 0xFFF) ∧
    ((15 : Nibble) = 0 ∨ (s0.setI 0xFF1).i.toNat + ((15 : Nibble).toNat - 1) ≤ 0xFFF) ∧
    (∃ r c, SpriteCovers (withCell (s0.setI 0x050) 0 0) 0 1 5 r c ∧ (withCell (s0.setI 0x050) 0 0).fb.lit r c = true) ∧
    ¬ ∃ r c, SpriteCovers s0 0 1 0 r c ∧ s0.fb.lit r c = true := by
  refine ⟨by decide, by decide, ⟨0, 0, ⟨0, 0, by decide⟩, by decide⟩, ?_⟩
  rintro ⟨r, c, ⟨i, j, h, -⟩, -⟩
  exact absurd h (by simp)

theorem test_witness_DrwTwiceRestoresTheDisplay :
    ((5 : Nibble) = 0 ∨ (s0.setI 0x050).i.toNat + ((5 : Nibble).toNat - 1) ≤ 0xFFF) ∧
    let t := nextOr s0 (exec (.drw 0 1 5) (s0.setI 0x050))
    (t.getV 0).toNat % 64 = ((s0.setI 0x050).getV 0).toNat % 64 ∧
      (t.getV 1).toNat % 32 = ((s0.setI 0x050).getV 1).toNat % 32 := by decide

theorem test_witness_KeySkips : (s0.getV 2).toNat < 16 ∧ ((s0.setV 2 15).getV 2).toNat < 16 := by decide

/-- The first key, the last one, and none. -/
theorem test_witness_WaitForKeyTakesTheLowest :
    (s0.setKey 0 true).keys[0] = true ∧
    ((s0.setKey 15 true).keys[15] = true ∧ ∀ j (hj : j < 15), (s0.setKey 15 true).keys[j] = false) ∧
    ∀ k (h : k < 16), s0.keys[k] = false := by decide

theorem test_witness_TickWithoutKeysStaysAtTheWait :
    let s := s0.storeAtPc 0xF10A
    s.halted = false ∧ 1 ≤ s.cfg.cyclesPerTick ∧ s.pc.toNat ≤ 0xFFE ∧
      decode (s.mem.readBytes s.pc.toNat 2) = .ok (.ldVxK 1, []) ∧ ∀ k (h : k < 16), s.keys[k] = false := by decide

theorem test_witness_LdBStoresThreeDigits : s0.mem.wf = true ∧ (s0.setI 0xFFD).i.toNat + 2 ≤ 0xFFF := by decide

theorem test_witness_BulkStore : s0.mem.wf = true ∧ (s0.setI 0xFF0).i.toNat + (15 : Nibble).toNat ≤ 0xFFF ∧
    (s0.setI 0xFFF).i.toNat + (0 : Nibble).toNat ≤ 0xFFF := by decide

theorem test_witness_BulkLoad : (s0.setI 0xFF0).i.toNat + (15 : Nibble).toNat ≤ 0xFFF ∧
    (s0.setI 0xFFF).i.toNat + (0 : Nibble).toNat ≤ 0xFFF := by decide

theorem test_witness_LoadAfterStoreGivesTheRegistersBack :
    s0.mem.wf = true ∧ (s0.setI 0xFF0).i.toNat + (15 : Nibble).toNat ≤ 0xFFF ∧
    let t := nextOr s0 (exec (.storeRegs 15) (s0.setI 0xFF0))
    (s0.setMem t.mem |>.setI 0xFF0).mem = t.mem ∧ (s0.setMem t.mem |>.setI 0xFF0).i = (s0.setI 0xFF0).i := by decide

/-- Both ways a tick can end. -/
theorem test_witness_TickIsCyclesThenOneTimerStep :
    (s0.storeAtPc 0x1200).halted = false ∧ isNext (tick (s0.storeAtPc 0x1200)) = true ∧
    (nextOr s0 (tick (s0.storeAtPc 0x1200))).halted = false ∧
    s0.halted = false ∧ isNext (tick s0) = true ∧ (nextOr s0 (tick s0)).halted = true := by decide

theorem test_witness_TickIsARunOfSteps : s0.tickLeft = 0 ∧ 1 ≤ s0.cfg.cyclesPerTick := by decide

/-- A program that fills the memory, and one byte more. -/
theorem test_witness_LoadWritesTheProgramOrNothing :
    s0.mem.wf = true ∧ s0.tickLeft = 0 ∧
    (List.replicate 3584 (7 : Byte)).length ≤ Params.standard.programEnd - 0x200 ∧
    Params.standard.programEnd - 0x200 < (List.replicate 3585 (7 : Byte)).length := by
  rw [List.length_replicate, List.length_replicate]
  decide

theorem test_witness_SetKeyChangesOneKey : s0.tickLeft = 0 ∧ ∀ j (h : j < 16), s0.keys[j] = false := by decide

theorem test_witness_SetConfigClampsTheBudget : s0.tickLeft = 0 ∧
    (⟨none, none, none, none, none⟩ : ConfigRequest).cyclesPerTick = none ∧
    (⟨none, none, none, none, some 0⟩ : ConfigRequest).cyclesPerTick = some 0 := by decide

theorem test_witness_HostMovesOnlyBetweenTicks : (after 0x1200 s0).tickLeft ≠ 0 ∧ s0.tickLeft = 0 ∧ isNext (tick s0) = true := by
  decide

/-- The model's one stop, in a state no run reaches. -/
theorem test_ret_above_sixteen : isFault (exec (.ret 0) (withSp s0 17)) = true := by decide

end Sys2Proof.Tests
end

section
/-! The tick and the step (60_exceptions.md R212; log entry 2). No cycle reads or writes the counter `tickLeft`, so a
run of steps, which carries it, is the loop of the tick, which does not. -/

namespace Sys2Proof.Machine

/-! ## A cycle does not see `tickLeft` -/

/-- An outcome with `tickLeft` set in its next state. -/
def outcomeWithTickLeft (k : Nat) : Host.Outcome State Fault Refusal → Host.Outcome State Fault Refusal
  | .next t => .next (t.setTickLeft k)
  | .fault r => .fault r
  | .refused r => .refused r

@[simp] theorem outcomeWithTickLeft_next (k : Nat) (t : State) :
    outcomeWithTickLeft k (.next t) = .next (t.setTickLeft k) := rfl

@[simp] theorem outcomeWithTickLeft_fault (k : Nat) (r : Fault) :
    outcomeWithTickLeft k (.fault r) = .fault r := rfl

@[simp] theorem outcomeWithTickLeft_refused (k : Nat) (r : Refusal) :
    outcomeWithTickLeft k (.refused r) = .refused r := rfl

@[simp] theorem State.setTickLeft_setTickLeft (s : State) (j k : Nat) :
    (s.setTickLeft j).setTickLeft k = s.setTickLeft k := rfl

theorem State.setTickLeft_self (s : State) : s.setTickLeft s.tickLeft = s := rfl

@[simp] theorem timerStep_setTickLeft (s : State) (k : Nat) :
    timerStep (s.setTickLeft k) = (timerStep s).setTickLeft k := rfl

@[simp] theorem State.raiseFatal_setTickLeft (s : State) (k : Nat) (c : FatalCause) (n : Nat) (w : Option Word) :
    (s.setTickLeft k).raiseFatal c n w = (s.raiseFatal c n w).setTickLeft k := rfl

@[simp] theorem State.fetch_setTickLeft (s : State) (k : Nat) : (s.setTickLeft k).fetch = s.fetch := rfl

theorem State.writeLogic_setTickLeft (s : State) (k : Nat) (x : Nibble) (b : Byte) :
    (s.setTickLeft k).writeLogic x b = (s.writeLogic x b).setTickLeft k := by
  unfold State.writeLogic
  rw [State.setTickLeft_cfg]
  split <;> rfl

/-- The three logic instructions: a write that may clear the flag, and the advance. -/
theorem writeLogic_advance_setTickLeft (s : State) (k : Nat) (x : Nibble) (b : Byte) (d : Word) :
    Host.Outcome.next (((s.setTickLeft k).writeLogic x b).advance d) =
      outcomeWithTickLeft k (.next ((s.writeLogic x b).advance d)) := by
  rw [State.writeLogic_setTickLeft]
  rfl

theorem withRange_setTickLeft {s t t' : State} {k n : Nat} {i : Instr} (ht : t' = t.setTickLeft k) :
    withRange (s.setTickLeft k) n i t' = outcomeWithTickLeft k (withRange s n i t) := by
  subst ht
  unfold withRange
  rw [State.setTickLeft_i]
  cases firstOutOfRange s.i.toNat n <;> rfl

theorem withKey_setTickLeft {s t t' : State} {k : Nat} {x : Nibble} {i : Instr} (ht : t' = t.setTickLeft k) :
    withKey (s.setTickLeft k) x i t' = outcomeWithTickLeft k (withKey s x i t) := by
  subst ht
  unfold withKey
  rw [State.getV_setTickLeft]
  split <;> rfl

theorem execRet_setTickLeft (s : State) (k : Nat) (ign : Nibble) :
    execRet ign (s.setTickLeft k) = outcomeWithTickLeft k (execRet ign s) := by
  unfold execRet State.pop
  rw [State.setTickLeft_sp, State.setTickLeft_stack]
  by_cases h : s.sp = 0
  · simp only [h, if_pos]
    rfl
  · simp only [if_neg h]
    cases s.stack[(s.sp - 1).toNat]? <;> rfl

theorem execCall_setTickLeft (s : State) (k : Nat) (nnn : Addr) :
    execCall nnn (s.setTickLeft k) = outcomeWithTickLeft k (execCall nnn s) := by
  unfold execCall State.push
  rw [State.setTickLeft_sp]
  by_cases h : s.sp.toNat < 16
  · simp only [dif_pos h]
    rfl
  · simp only [dif_neg h]
    rfl

theorem execLdVxK_setTickLeft (s : State) (k : Nat) (x : Nibble) :
    execLdVxK x (s.setTickLeft k) = outcomeWithTickLeft k (execLdVxK x s) := by
  have hkey : (s.setTickLeft k).lowestKey = s.lowestKey := rfl
  unfold execLdVxK
  rw [hkey]
  cases s.lowestKey <;> rfl

theorem exec_setTickLeft (i : Instr) (s : State) (k : Nat) :
    exec i (s.setTickLeft k) = outcomeWithTickLeft k (exec i s) := by
  cases i with
  | ret ign => exact execRet_setTickLeft s k ign
  | call nnn => exact execCall_setTickLeft s k nnn
  | ldVxK x => exact execLdVxK_setTickLeft s k x
  | orReg x y | andReg x y | xorReg x y => exact writeLogic_advance_setTickLeft s k x _ 2
  | drw x y n => exact withRange_setTickLeft rfl
  | ldB x | storeRegs x | loadRegs x => exact withRange_setTickLeft rfl
  | skp x | sknp x => exact withKey_setTickLeft rfl
  | _ => rfl

theorem cycle_setTickLeft (s : State) (k : Nat) :
    cycle (s.setTickLeft k) = outcomeWithTickLeft k (cycle s) := by
  unfold cycle
  rw [State.setTickLeft_halted, State.fetch_setTickLeft]
  cases s.halted with
  | true => rfl
  | false =>
    cases s.fetch with
    | error a => rfl
    | ok w =>
      cases hd : decodeWord w with
      | error e => simp [hd]
      | ok i => simpa [hd] using exec_setTickLeft i s k

/-! ## Runs of steps -/

theorem run_halted {s : State} (hs : s.halted = true) (k : Nat) : Sys2Proof.core.run k s = .next s := by
  induction k with
  | zero => rfl
  | succ k ih => rw [run_succ, step_halted hs]; exact ih

theorem tick_halted {s : State} (hs : s.halted = true) : tick s = .next s := by
  simp [tick, hs]

theorem tick_running {s : State} (hs : s.halted = false) : tick s = tickLoop s.cfg.cyclesPerTick s := by
  simp [tick, hs]

/-- A step of a running machine, by what its cycle answers. -/
theorem step_running {s : State} (hs : s.halted = false) :
    step s =
      match cycle s with
      | .next t => .next (endCycle s.budget t)
      | .fault r => .fault r
      | .refused r => .refused r := by
  unfold step stepCycle
  rw [hs]
  rfl

/-- The budget is what the counter says while a tick is in progress. -/
theorem State.budget_setTickLeft_succ (s : State) (k : Nat) : (s.setTickLeft (k + 1)).budget = k + 1 := rfl

theorem State.budget_of_tickLeft_zero {s : State} (h : s.tickLeft = 0) : s.budget = s.cfg.cyclesPerTick := by
  simp [State.budget, h]

theorem endCycle_halted {s : State} (hs : s.halted = true) (n : Nat) : endCycle n s = s.setTickLeft 0 := by
  simp [endCycle, hs]

theorem endCycle_last {s : State} (hs : s.halted = false) : endCycle 1 s = (timerStep s).setTickLeft 0 := by
  simp [endCycle, hs]

theorem endCycle_before_last {s : State} (hs : s.halted = false) (n : Nat) :
    endCycle (n + 2) s = s.setTickLeft (n + 1) := by
  simp [endCycle, hs]

/-- After any cycle with `n` more to come in its tick, `n` steps answer what the loop of R212 answers: the halted state
at once, or the `n` cycles and the timer step. -/
def StepsFinishTick (n : Nat) : Prop :=
  ∀ t : State, Sys2Proof.core.run n (endCycle (n + 1) t) =
    if t.halted then .next (t.setTickLeft 0) else tickLoop n (t.setTickLeft 0)

/-- One cycle of the loop is one step, when the steps after it finish the loop. -/
theorem run_succ_eq_tickLoop {n : Nat} (hn : StepsFinishTick n) {s : State} (hs : s.halted = false)
    (hb : s.budget = n + 1) : Sys2Proof.core.run (n + 1) s = tickLoop (n + 1) (s.setTickLeft 0) := by
  rw [run_succ, step_running hs, hb, tickLoop, cycle_setTickLeft]
  cases cycle s with
  | next t => exact hn t
  | fault r => rfl
  | refused r => rfl

theorem stepsFinishTick (n : Nat) : StepsFinishTick n := by
  induction n with
  | zero =>
    intro t
    cases ht : t.halted with
    | true => rw [endCycle_halted ht]; rfl
    | false => rw [endCycle_last ht]; rfl
  | succ n ih =>
    intro t
    cases ht : t.halted with
    | true => rw [endCycle_halted ht]; exact run_halted (s := t.setTickLeft 0) ht _
    | false =>
      rw [endCycle_before_last ht]
      exact run_succ_eq_tickLoop ih ht (t.budget_setTickLeft_succ n)

/-- Settles O56: a halted machine stays under both; a running one between ticks has its whole budget left. -/
theorem tickIsARunOfSteps : Obligations.TickIsARunOfSteps := by
  unfold Obligations.TickIsARunOfSteps
  intro s h0 hc
  cases hs : s.halted with
  | true => exact (run_halted hs _).trans (tick_halted hs).symm
  | false =>
    obtain ⟨n, hn⟩ := Nat.exists_eq_add_of_le' hc
    have hb : s.budget = n + 1 := (State.budget_of_tickLeft_zero h0).trans hn
    have hself : s.setTickLeft 0 = s := by rw [← h0]; exact s.setTickLeft_self
    rw [tick_running hs, hn, run_succ_eq_tickLoop (stepsFinishTick n) hs hb, hself]

end Sys2Proof.Machine
end

section
/-! What an instruction can do (60_exceptions.md R200, R204; the writers of 10_state.md R22 to R36): it takes a fatal
condition, or it makes a chain of writes each of which it is permitted, or it is the RET of log entry 3. -/

namespace Sys2Proof

/-- How many bytes an instruction stores from `I` on (45_index_memory.md R164, R166). -/
def Instr.storeCount : Instr → Nat
  | .ldB _ => 3
  | .storeRegs x => x.toNat + 1
  | _ => 0

end Sys2Proof

namespace Sys2Proof.Machine

/-- `AfterWrites i s t`: from `s` a chain of the named writes leads to `t`, and each of them is one `i` may make. -/
inductive AfterWrites (i : Instr) (s : State) : State → Prop where
  | start : AfterWrites i s s
  | setV {t : State} (ht : AfterWrites i s t) (x : Nibble) (b : Byte) (hi : i.writesV s.cfg x = true) :
      AfterWrites i s (t.setV x b)
  | loadV {t : State} (ht : AfterWrites i s t) (bytes : List Byte)
      (hi : ∀ k : Nibble, k.toNat < bytes.length → i.writesV s.cfg k = true) : AfterWrites i s (t.loadV bytes)
  | setI {t : State} (ht : AfterWrites i s t) (w : Word) (hi : i.writesI s.cfg = true) : AfterWrites i s (t.setI w)
  | jump {t : State} (ht : AfterWrites i s t) (w : Word) : AfterWrites i s (t.jump w)
  | store {t : State} (ht : AfterWrites i s t) (bytes : List Byte) (hi : bytes.length = i.storeCount)
      (hr : s.i.toNat + i.storeCount ≤ 0x1000) :
      AfterWrites i s (t.setMem (t.mem.writeBytes s.i.toNat bytes))
  | push {t : State} (ht : AfterWrites i s t) (w : Word) (hs : t.sp.toNat < 16) (hi : ∃ nnn, i = .call nnn) :
      AfterWrites i s { t with stack := t.stack.set t.sp.toNat w hs, sp := t.sp + 1 }
  | pop {t : State} (ht : AfterWrites i s t) (hs : 0 < t.sp.toNat) (hi : ∃ ign, i = .ret ign) :
      AfterWrites i s { t with sp := t.sp - 1 }
  | setDt {t : State} (ht : AfterWrites i s t) (b : Byte) (hi : ∃ x, i = .ldDtVx x) : AfterWrites i s (t.setDt b)
  | setSt {t : State} (ht : AfterWrites i s t) (b : Byte) (hi : ∃ x, i = .ldStVx x) : AfterWrites i s (t.setSt b)
  | setFb {t : State} (ht : AfterWrites i s t) (fb : Display)
      (hi : (∃ ign, i = .cls ign) ∨ ∃ x y n, i = .drw x y n) : AfterWrites i s (t.setFb fb)
  | setAwait {t : State} (ht : AfterWrites i s t) (b : Bool) (hi : ∃ x, i = .ldVxK x) :
      AfterWrites i s (t.setAwait b)
  | afterDraw {t : State} (ht : AfterWrites i s t) : AfterWrites i s t.afterDraw

/-! ## The composed writes -/

theorem AfterWrites.advance {i : Instr} {s t : State} (ht : AfterWrites i s t) (d : Word) :
    AfterWrites i s (t.advance d) := ht.jump (t.pc + d)

theorem AfterWrites.setFlag {i : Instr} {s t : State} (ht : AfterWrites i s t) (b : Bool)
    (hi : i.writesV s.cfg 15 = true) : AfterWrites i s (t.setFlag b) := ht.setV 15 (flagByte b) hi

theorem AfterWrites.writeResult {i : Instr} {s t : State} (ht : AfterWrites i s t) (x : Nibble) (r : AluResult)
    (hx : i.writesV s.cfg x = true) (hf : i.writesV s.cfg 15 = true) : AfterWrites i s (t.writeResult x r) :=
  (ht.setV x r.value hx).setFlag r.flag hf

/-- The three logic instructions write the flag under `cfg.vf_reset` alone. -/
theorem AfterWrites.writeLogic {i : Instr} {s : State} (x : Nibble) (b : Byte) (hx : i.writesV s.cfg x = true)
    (hf : s.cfg.vfReset = true → i.writesV s.cfg 15 = true) : AfterWrites i s (s.writeLogic x b) := by
  unfold State.writeLogic
  split
  · next h => exact (start.setV x b hx).setFlag false (hf h)
  · exact start.setV x b hx

/-- A bulk transfer moves `I` under `cfg.memory` alone (R165). -/
theorem AfterWrites.setIndexAfterBulk {i : Instr} {s t : State} (ht : AfterWrites i s t) (x : Nibble)
    (hti : t.i = s.i) (hi : i.writesI s.cfg = s.cfg.memory) : AfterWrites i s (t.setI (indexAfterBulk s x)) := by
  unfold indexAfterBulk
  split
  · next h => exact ht.setI _ (hi.trans h)
  · rw [← hti]; exact ht

/-! ## What the execution of an instruction answers -/

/-- The three answers of an instruction. -/
inductive Answer (i : Instr) (s : State) : Host.Outcome State Fault Refusal → Prop where
  | fatal (c : FatalCause) (n : Nat) : Answer i s (.next (s.raiseFatal c n (some (encodeWord i))))
  | done {t : State} (ht : AfterWrites i s t) : Answer i s (.next t)
  | noEntry (hi : ∃ ign, i = .ret ign) (hs : 16 < s.sp.toNat) : Answer i s (.fault .stackIndexOutOfArray)

theorem withRange_answer {i : Instr} {s t : State} {n : Nat}
    (ht : n = 0 ∨ s.i.toNat + n ≤ 0x1000 → AfterWrites i s t) : Answer i s (withRange s n i t) := by
  rcases withRange_cases s n i t with ⟨-, e⟩ | ⟨hr, e⟩ <;> rw [e]
  · exact .fatal _ _
  · exact .done (ht hr)

theorem withKey_answer {i : Instr} {s t : State} {x : Nibble} (ht : AfterWrites i s t) :
    Answer i s (withKey s x i t) := by
  rcases withKey_cases s x i t with ⟨-, e⟩ | ⟨-, e⟩ <;> rw [e]
  · exact .fatal _ _
  · exact .done ht

theorem execCall_answer (nnn : Addr) (s : State) : Answer (.call nnn) s (execCall nnn s) := by
  rcases execCall_cases nnn s with ⟨-, e⟩ | ⟨hs, e⟩ <;> rw [e]
  · exact .fatal _ _
  · exact .done ((AfterWrites.start.push _ hs ⟨nnn, rfl⟩).jump _)

theorem execRet_answer (ign : Nibble) (s : State) : Answer (.ret ign) s (execRet ign s) := by
  rcases execRet_cases ign s with ⟨-, e⟩ | ⟨hs, e⟩ | ⟨_, hs, e⟩ <;> rw [e]
  · exact .fatal _ _
  · exact .noEntry ⟨ign, rfl⟩ hs
  · exact .done ((AfterWrites.start.pop hs ⟨ign, rfl⟩).jump _)

theorem execLdVxK_answer (x : Nibble) (s : State) : Answer (.ldVxK x) s (execLdVxK x s) := by
  rcases execLdVxK_cases x s with ⟨-, e⟩ | ⟨k, -, -, e⟩ <;> rw [e]
  · exact .done ((AfterWrites.start.setAwait true ⟨x, rfl⟩).advance 0)
  · exact .done (((AfterWrites.start.setV x _ (by simp [Instr.writesV])).setAwait false ⟨x, rfl⟩).advance 2)

theorem execLdB_answer (x : Nibble) (s : State) : Answer (.ldB x) s (execLdB x s) :=
  withRange_answer fun hr =>
    (AfterWrites.start.store (bcdDigits (s.getV x)) rfl (hr.resolve_left (by decide))).advance 2

theorem execStoreRegs_answer (x : Nibble) (s : State) : Answer (.storeRegs x) s (execStoreRegs x s) :=
  withRange_answer fun hr =>
    have hst : AfterWrites (.storeRegs x) s (s.setMem (s.mem.writeBytes s.i.toNat (s.regsTo x))) :=
      AfterWrites.start.store _ (s.regsTo_length x) (hr.resolve_left (Nat.succ_ne_zero _))
    (hst.setIndexAfterBulk x rfl rfl).advance 2

theorem execLoadRegs_answer (x : Nibble) (s : State) : Answer (.loadRegs x) s (execLoadRegs x s) :=
  withRange_answer fun _ =>
    have hld : AfterWrites (.loadRegs x) s (s.loadV (s.mem.readBytes s.i.toNat (bulkCount x))) :=
      AfterWrites.start.loadV _ fun k hk => by simpa [bulkCount, Instr.writesV, Nat.lt_succ_iff] using hk
    (hld.setIndexAfterBulk x rfl rfl).advance 2

/-- Every instruction answers in one of the three ways. -/
theorem exec_answer (i : Instr) (s : State) : Answer i s (exec i s) := by
  cases i with
  | sys nnn => exact .fatal _ _
  | cls ign => exact .done ((AfterWrites.start.setFb _ (.inl ⟨ign, rfl⟩)).advance 2)
  | ret ign => exact execRet_answer ign s
  | call nnn => exact execCall_answer nnn s
  | jp nnn | jpV0 nnn => exact .done (AfterWrites.start.jump _)
  | seImm x nn | sneImm x nn => exact .done (AfterWrites.start.advance _)
  | seReg x y ign | sneReg x y ign => exact .done (AfterWrites.start.advance _)
  | skp x | sknp x => exact withKey_answer (AfterWrites.start.advance _)
  | ldImm x nn | addImm x nn => exact .done ((AfterWrites.start.setV x _ (by simp [Instr.writesV])).advance 2)
  | ldReg x y => exact .done ((AfterWrites.start.setV x _ (by simp [Instr.writesV])).advance 2)
  | ldVxDt x => exact .done ((AfterWrites.start.setV x _ (by simp [Instr.writesV])).advance 2)
  | rnd x nn => exact .done ((AfterWrites.start.afterDraw.setV x _ (by simp [Instr.writesV])).advance 2)
  | orReg x y | andReg x y | xorReg x y =>
    exact .done ((AfterWrites.writeLogic x _ (by simp [Instr.writesV]) (by simp +contextual [Instr.writesV])).advance 2)
  | addReg x y | sub x y | shr x y | subn x y | shl x y =>
    exact .done ((AfterWrites.start.writeResult x _ (by simp [Instr.writesV]) (by simp [Instr.writesV])).advance 2)
  | drw x y n =>
    exact withRange_answer fun _ =>
      ((AfterWrites.start.setFb _ (.inr ⟨x, y, n, rfl⟩)).setFlag _ (by simp [Instr.writesV])).advance 2
  | ldVxK x => exact execLdVxK_answer x s
  | ldDtVx x => exact .done ((AfterWrites.start.setDt _ ⟨x, rfl⟩).advance 2)
  | ldStVx x => exact .done ((AfterWrites.start.setSt _ ⟨x, rfl⟩).advance 2)
  | ldI nnn => exact .done ((AfterWrites.start.setI _ rfl).advance 2)
  | addI x | ldF x => exact .done ((AfterWrites.start.setI _ rfl).advance 2)
  | ldB x => exact execLdB_answer x s
  | storeRegs x => exact execStoreRegs_answer x s
  | loadRegs x => exact execLoadRegs_answer x s

/-- Everything an instruction that answers a next state can do. -/
theorem exec_next_cases {i : Instr} {s t : State} (h : exec i s = .next t) :
    (∃ c n, t = s.raiseFatal c n (some (encodeWord i))) ∨ AfterWrites i s t := by
  have ha := exec_answer i s
  rw [h] at ha
  cases ha with
  | fatal c n => exact .inl ⟨c, n, rfl⟩
  | done ht => exact .inr ht

/-- Settles O16: of the three answers only the third is no next state. -/
theorem onlyRetAboveSixteenStops : Obligations.OnlyRetAboveSixteenStops := by
  unfold Obligations.OnlyRetAboveSixteenStops
  intro i s
  have ha := exec_answer i s
  generalize exec i s = o at ha
  cases ha with
  | fatal c n => exact .inl ⟨_, rfl⟩
  | done ht => exact .inl ⟨_, rfl⟩
  | noEntry hi hs => exact .inr ⟨hi, hs, rfl⟩

end Sys2Proof.Machine
end

section
/-! The frame of an instruction (10_state.md R20 to R37): state that no permitted write touches is as it was. -/

namespace Sys2Proof.Machine

/-- Each of these pieces of state differs only if the instruction is its writer. -/
structure ChangedByWriter (i : Instr) (s t : State) : Prop where
  stack : t.stack ≠ s.stack → ∃ nnn, i = .call nnn
  sp : t.sp ≠ s.sp → (∃ nnn, i = .call nnn) ∨ ∃ ign, i = .ret ign
  dt : t.dt ≠ s.dt → ∃ x, i = .ldDtVx x
  st : t.st ≠ s.st → ∃ x, i = .ldStVx x
  fb : t.fb ≠ s.fb → (∃ ign, i = .cls ign) ∨ ∃ x y n, i = .drw x y n
  await : t.await ≠ s.await → ∃ x, i = .ldVxK x

theorem ChangedByWriter.same {i : Instr} {s t : State} (hstack : t.stack = s.stack) (hsp : t.sp = s.sp)
    (hdt : t.dt = s.dt) (hst : t.st = s.st) (hfb : t.fb = s.fb) (hawait : t.await = s.await) :
    ChangedByWriter i s t :=
  ⟨absurd hstack, absurd hsp, absurd hdt, absurd hst, absurd hfb, absurd hawait⟩

namespace AfterWrites

variable {i : Instr} {s t : State}

theorem getV_eq (h : AfterWrites i s t) {k : Nibble} (hk : i.writesV s.cfg k = false) : t.getV k = s.getV k := by
  induction h with
  | start => rfl
  | setV ht x b hi ih =>
    have hne : k ≠ x := by rintro rfl; exact Bool.false_ne_true (hk.symm.trans hi)
    rw [State.getV_setV, if_neg hne, ih]
  | loadV ht bytes hi ih =>
    have hlen : ¬ k.toNat < bytes.length := fun hlt => Bool.false_ne_true (hk.symm.trans (hi k hlt))
    rw [State.getV_loadV, if_neg hlen, ih]
  | _ => assumption

theorem i_eq (h : AfterWrites i s t) (hi : i.writesI s.cfg = false) : t.i = s.i := by
  induction h with
  | start => rfl
  | setI ht w hw ih => exact absurd (hi.symm.trans hw) Bool.false_ne_true
  | _ => assumption

theorem changedByWriter (h : AfterWrites i s t) : ChangedByWriter i s t := by
  induction h with
  | start => exact .same rfl rfl rfl rfl rfl rfl
  | push ht w hs hi ih => exact { ih with stack := fun _ => hi, sp := fun _ => .inl hi }
  | pop ht hs hi ih => exact { ih with sp := fun _ => .inr hi }
  | setDt ht b hi ih => exact { ih with dt := fun _ => hi }
  | setSt ht b hi ih => exact { ih with st := fun _ => hi }
  | setFb ht fb hi ih => exact { ih with fb := fun _ => hi }
  | setAwait ht b hi ih => exact { ih with await := fun _ => hi }
  | _ => rename_i ih; exact { ih with }

/-- No write reaches what the host owns (R35, R37). -/
theorem keys_cfg_eq (h : AfterWrites i s t) : t.keys = s.keys ∧ t.cfg = s.cfg := by
  induction h with
  | start => exact ⟨rfl, rfl⟩
  | _ => assumption

/-- No write reaches the halt latch or its record: they belong to the fatal condition alone (R38, R204). -/
theorem halted_fault_eq (h : AfterWrites i s t) : t.halted = s.halted ∧ t.fault = s.fault := by
  induction h with
  | start => exact ⟨rfl, rfl⟩
  | _ => assumption

theorem mem_wf (h : AfterWrites i s t) (hm : s.mem.wf = true) : t.mem.wf = true := by
  induction h with
  | start => exact hm
  | store ht bytes hi hr ih => exact Memory.writeBytes_wf _ _ bytes ih (by rw [hi]; exact hr)
  | _ => assumption

/-- A push starts below 16 and a pop above 0, so neither leaves the stack (R27). -/
theorem sp_le (h : AfterWrites i s t) (hsp : s.sp.toNat ≤ 16) : t.sp.toNat ≤ 16 := by
  induction h with
  | start => exact hsp
  | @push t ht w hs hi ih =>
    show (t.sp + 1).toNat ≤ 16
    bv_omega
  | @pop t ht hs hi ih =>
    show (t.sp - 1).toNat ≤ 16
    bv_omega
  | _ => assumption

end AfterWrites

theorem exec_changedByWriter {i : Instr} {s t : State} (h : exec i s = .next t) : ChangedByWriter i s t := by
  obtain ⟨c, n, rfl⟩ | hw := exec_next_cases h
  · exact .same rfl rfl rfl rfl rfl rfl
  · exact hw.changedByWriter

/-- Settles O23: a fatal condition writes no register, and no permitted write is to one outside the list. -/
theorem registersChangeOnlyByTheirWriters : Obligations.RegistersChangeOnlyByTheirWriters := by
  unfold Obligations.RegistersChangeOnlyByTheirWriters
  intro i s t k h hk
  obtain ⟨c, n, rfl⟩ | hw := exec_next_cases h
  · exact State.getV_raiseFatal s c n _ k
  · exact hw.getV_eq hk

/-- Settles O24, in the same way for `I`. -/
theorem indexChangesOnlyByItsWriters : Obligations.IndexChangesOnlyByItsWriters := by
  unfold Obligations.IndexChangesOnlyByItsWriters
  intro i s t h hi
  obtain ⟨c, n, rfl⟩ | hw := exec_next_cases h
  · exact State.raiseFatal_i s c n _
  · exact hw.i_eq hi

/-- Settles O26: each of these pieces has its own write, which carries the instruction that makes it. -/
theorem otherStateChangesOnlyByItsWriters : Obligations.OtherStateChangesOnlyByItsWriters := by
  unfold Obligations.OtherStateChangesOnlyByItsWriters
  intro i s t h
  obtain ⟨hstack, hsp, hdt, hst, hfb, hawait⟩ := exec_changedByWriter h
  exact ⟨hstack, hsp, hdt, hst, hfb, hawait⟩

end Sys2Proof.Machine
end

section
/-! The invariant of the machine (10_state.md R41) and what a run leaves to the host (R35, R37): cycle, step, run. -/

namespace Sys2Proof.Machine

/-! ## The invariant within a tick -/

/-- The invariant without its part on `tickLeft`, which a cycle that halts breaks and the end of its step restores. -/
def State.CycleInv (s : State) : Prop :=
  s.mem.wf = true ∧ s.sp.toNat ≤ 16 ∧ 1 ≤ s.cfg.cyclesPerTick ∧ s.halted = s.fault.isSome

theorem State.inv_iff (s : State) : s.Inv ↔ s.CycleInv ∧ (s.halted = true → s.tickLeft = 0) := by
  simp only [State.Inv, State.CycleInv, and_assoc]

theorem State.CycleInv.raiseFatal {s : State} (hs : s.CycleInv) (c : FatalCause) (n : Nat) (w : Option Word) :
    (s.raiseFatal c n w).CycleInv := by
  obtain ⟨hmem, hsp, hcyc, -⟩ := hs
  exact ⟨hmem, hsp, hcyc, rfl⟩

theorem AfterWrites.cycleInv {i : Instr} {s t : State} (h : AfterWrites i s t) (hs : s.CycleInv) : t.CycleInv := by
  obtain ⟨hmem, hsp, hcyc, hlatch⟩ := hs
  obtain ⟨-, hcfg⟩ := h.keys_cfg_eq
  obtain ⟨hh, hf⟩ := h.halted_fault_eq
  exact ⟨h.mem_wf hmem, h.sp_le hsp, by rwa [hcfg], by rwa [hh, hf]⟩

theorem exec_keeps_cycleInv {i : Instr} {s t : State} (h : exec i s = .next t) (hs : s.CycleInv) : t.CycleInv := by
  obtain ⟨c, n, rfl⟩ | hw := exec_next_cases h
  · exact hs.raiseFatal c n _
  · exact hw.cycleInv hs

/-- Everything a cycle of a running machine that answers a next state can do: a fatal condition of its own, or an
instruction. -/
theorem cycle_next_cases {s t : State} (hs : s.halted = false) (h : cycle s = .next t) :
    (∃ c n w, t = s.raiseFatal c n w) ∨ ∃ i, exec i s = .next t := by
  rcases cycle_cases hs with ⟨a, -, e⟩ | ⟨w, _, -, -, e⟩ | ⟨_, i, -, -, e⟩ <;> rw [e] at h
  · exact .inl ⟨_, _, _, (Host.Outcome.next.inj h).symm⟩
  · exact .inl ⟨_, _, _, (Host.Outcome.next.inj h).symm⟩
  · exact .inr ⟨i, h⟩

theorem cycle_keeps_cycleInv {s t : State} (hr : s.halted = false) (h : cycle s = .next t) (hs : s.CycleInv) :
    t.CycleInv := by
  obtain ⟨c, n, w, rfl⟩ | ⟨i, hi⟩ := cycle_next_cases hr h
  · exact hs.raiseFatal c n w
  · exact exec_keeps_cycleInv hi hs

/-- The end of a step leaves no tick in progress on a machine its cycle has halted. -/
theorem endCycle_inv {s : State} (n : Nat) (hs : s.CycleInv) : (endCycle n s).Inv := by
  rw [State.inv_iff]
  rcases endCycle_cases n s with ⟨-, e⟩ | ⟨-, -, e⟩ | ⟨hr, -, e⟩ <;> rw [e]
  · exact ⟨hs, fun _ => rfl⟩
  · exact ⟨hs, fun _ => rfl⟩
  · exact ⟨hs, fun hh => absurd (hr.symm.trans hh) Bool.false_ne_true⟩

/-- Settles O17: a halted machine stays; a running one keeps the other parts of the invariant in its cycle, and the end
of the step restores the part on `tickLeft`. -/
theorem stepKeepsInvariant : Obligations.StepKeepsInvariant := by
  unfold Obligations.StepKeepsInvariant
  intro s t hs h
  obtain ⟨-, rfl⟩ | ⟨hr, u, hc, rfl⟩ := step_next_cases h
  · exact hs
  · obtain ⟨hci, -⟩ := s.inv_iff.1 hs
    exact endCycle_inv _ (cycle_keeps_cycleInv hr hc hci)

/-- With `sp` within the stack no instruction stops (log entry 3). -/
theorem exec_next_of_sp_le {s : State} (hsp : s.sp.toNat ≤ 16) (i : Instr) : ∃ t, exec i s = .next t :=
  (onlyRetAboveSixteenStops i s).resolve_right fun ⟨_, hgt, _⟩ => by omega

theorem cycle_next_of_sp_le {s : State} (hr : s.halted = false) (hsp : s.sp.toNat ≤ 16) :
    ∃ t, cycle s = .next t := by
  rcases cycle_cases hr with ⟨_, -, e⟩ | ⟨_, _, -, -, e⟩ | ⟨_, i, -, -, e⟩ <;> rw [e]
  · exact ⟨_, rfl⟩
  · exact ⟨_, rfl⟩
  · exact exec_next_of_sp_le hsp i

/-- Settles O18: of the invariant it needs that `sp` is within the stack. -/
theorem stepAnswersNextState : Obligations.StepAnswersNextState := by
  unfold Obligations.StepAnswersNextState
  intro s ⟨_, hsp, _⟩
  cases hr : s.halted with
  | true => exact ⟨s, step_halted hr⟩
  | false =>
    obtain ⟨u, hc⟩ := cycle_next_of_sp_le hr hsp
    exact ⟨endCycle s.budget u, by rw [step_running hr, hc]⟩

/-! ## Runs -/

/-- What every step keeps, every run keeps. -/
theorem run_keeps {P : State → Prop} (hstep : ∀ s t, P s → step s = .next t → P t) (k : Nat) {s t : State}
    (hs : P s) (h : Sys2Proof.core.run k s = .next t) : P t := by
  induction k generalizing s with
  | zero => exact Host.Outcome.next.inj h ▸ hs
  | succ k ih =>
    rw [run_succ] at h
    cases hc : step s with
    | next u => rw [hc] at h; exact ih (hstep s u hs hc) h
    | fault r => rw [hc] at h; cases h
    | refused r => rw [hc] at h; cases h

theorem cycle_keys_cfg {s t : State} (hr : s.halted = false) (h : cycle s = .next t) :
    t.keys = s.keys ∧ t.cfg = s.cfg := by
  obtain ⟨c, n, w, rfl⟩ | ⟨i, hi⟩ := cycle_next_cases hr h
  · exact ⟨rfl, rfl⟩
  · obtain ⟨c, n, rfl⟩ | hw := exec_next_cases hi
    · exact ⟨rfl, rfl⟩
    · exact hw.keys_cfg_eq

theorem endCycle_keys_cfg (n : Nat) (s : State) : (endCycle n s).keys = s.keys ∧ (endCycle n s).cfg = s.cfg := by
  rcases endCycle_cases n s with ⟨-, e⟩ | ⟨-, -, e⟩ | ⟨-, -, e⟩ <;> rw [e] <;> exact ⟨rfl, rfl⟩

theorem step_keys_cfg {s t : State} (h : step s = .next t) : t.keys = s.keys ∧ t.cfg = s.cfg := by
  obtain ⟨-, rfl⟩ | ⟨hr, u, hc, rfl⟩ := step_next_cases h
  · exact ⟨rfl, rfl⟩
  · obtain ⟨hk, hcfg⟩ := cycle_keys_cfg hr hc
    obtain ⟨hk', hcfg'⟩ := endCycle_keys_cfg s.budget u
    exact ⟨hk'.trans hk, hcfg'.trans hcfg⟩

/-- Settles O28: every step keeps them. -/
theorem runKeepsKeysAndConfig : Obligations.RunKeepsKeysAndConfig := by
  unfold Obligations.RunKeepsKeysAndConfig
  intro k s t
  refine run_keeps (P := fun u => u.keys = s.keys ∧ u.cfg = s.cfg) (fun u u' ⟨hk, hcfg⟩ hu => ?_) k ⟨rfl, rfl⟩
  obtain ⟨hk', hcfg'⟩ := step_keys_cfg hu
  exact ⟨hk'.trans hk, hcfg'.trans hcfg⟩

theorem cycles_halted {s : State} (hs : s.halted = true) (k : Nat) : cycles k s = .next s := by
  have hc : cycle s = .next s := by simp [cycle, hs]
  induction k with
  | zero => rfl
  | succ k ih => rw [cycles, hc]; exact ih

/-- Settles O10: the run, the cycles and the tick each ask for the halt latch first. -/
theorem haltedMachineStays : Obligations.HaltedMachineStays := by
  unfold Obligations.HaltedMachineStays
  exact fun s k hs => ⟨run_halted hs k, cycles_halted hs k, tick_halted hs⟩

end Sys2Proof.Machine
end

section
/-! Reset, the host's transactions and the form of memory (10_state.md R29, R41, R42; 70_reset_and_hazards.md R230 to
R241). -/

namespace Sys2Proof.Machine

/-! ## The state after reset -/

theorem State.resetWith_inv (p : Params) : (State.resetWith p).Inv :=
  ⟨fontMemory_wf p, Nat.zero_le 16, p.cycles_pos, rfl, fun _ => rfl⟩

/-- `State.reset` is the reset under the default parameters (log entries 5 to 7). -/
theorem State.resetWith_standard : State.resetWith Params.standard = State.reset :=
  congrArg (State.resetFrom resetCfg) fontMemory_default

/-- Settles O19; `State.reset` is the reset under the default parameters. -/
theorem resetMeetsInvariant : Obligations.ResetMeetsInvariant := by
  unfold Obligations.ResetMeetsInvariant
  exact ⟨State.resetWith_standard ▸ State.resetWith_inv _, State.resetWith_inv⟩

/-- The font stands at its place after reset, all 80 bytes of it (R31, R42). -/
theorem fontMemory_readBytes (p : Params) : (fontMemory p.font).readBytes 0x050 80 = p.font := by
  apply List.ext_getElem?
  intro k
  by_cases hk : k < 80
  · have hlen : k < p.font.length := p.font_length.symm ▸ hk
    rw [Memory.readBytes_getElem? _ _ _ _ hk, fontMemory_read, if_pos (by omega), Nat.add_sub_cancel_left,
      List.getD_eq_getElem _ _ hlen, List.getElem?_eq_getElem hlen]
  · rw [List.getElem?_eq_none (by simpa using hk), List.getElem?_eq_none (by simpa [p.font_length] using hk)]

theorem hostAct_reset (p : Params) {s : State} (h0 : s.tickLeft = 0) :
    hostAct p .reset s = .next ({ State.resetWith p with draws := s.draws }, .nothing) := by
  simp [hostAct, h0, State.afterReset_eq]

/-- Settles O21. -/
theorem resetLeavesTheStartState : Obligations.ResetLeavesTheStartState := by
  unfold Obligations.ResetLeavesTheStartState
  refine ⟨fun p => ⟨rfl, rfl, State.getV_resetWith p, rfl, fun k h => ⟨?_, ?_⟩, fontMemory_readBytes p,
    fun a ha => ?_, rfl, rfl, Display.lit_clear, rfl, rfl, rfl, rfl, fun s h0 => hostAct_reset p h0⟩,
    State.resetWith_standard⟩
  · simp
  · simp
  · rw [State.resetWith_mem, fontMemory_read, if_neg (by omega)]

/-! ## The transactions -/

theorem tickReply_next {s t : State} {r : HostReply} (h : tickReply s = .next (t, r)) : tick s = .next t := by
  unfold tickReply at h
  cases ht : tick s with
  | next u => rw [ht] at h; cases h; rfl
  | fault e => rw [ht] at h; cases h
  | refused e => rw [ht] at h; cases h

/-- The state that a transaction leaves when it is answered. -/
theorem hostAct_next_cases {p : Params} {m : HostMove} {s t : State} {r : HostReply}
    (h : hostAct p m s = .next (t, r)) :
    s.tickLeft = 0 ∧ (t = s ∨ t = State.afterReset p s ∨ (∃ bytes, s.load p bytes = some t) ∨
      (∃ k b, t = s.setKey k b) ∨ (∃ q, t = s.setConfig q) ∨ tick s = .next t) := by
  unfold hostAct at h
  split at h
  · cases h
  next hbusy =>
  refine ⟨not_not.1 hbusy, ?_⟩
  cases m with
  | reset => cases h; exact .inr (.inl rfl)
  | load bytes =>
    cases hl : s.load p bytes with
    | some u => simp only [hl] at h; cases h; exact .inr (.inr (.inl ⟨bytes, hl⟩))
    | none => simp only [hl] at h; cases h; exact .inl rfl
  | setKey k b => cases h; exact .inr (.inr (.inr (.inl ⟨k, b, rfl⟩)))
  | setConfig q => cases h; exact .inr (.inr (.inr (.inr (.inl ⟨q, rfl⟩))))
  | tick => exact .inr (.inr (.inr (.inr (.inr (tickReply_next h)))))
  | readDisplay | readDump => cases h; exact .inl rfl

theorem Cfg.update_cycles_pos {c : Cfg} (hc : 1 ≤ c.cyclesPerTick) (q : ConfigRequest) :
    1 ≤ (c.update q).cyclesPerTick := by
  unfold Cfg.update clampCycles
  cases q.cyclesPerTick with
  | none => exact hc
  | some n => simp

theorem State.load_inv {p : Params} {s t : State} {bytes : List Byte} (h : s.load p bytes = some t) (hs : s.Inv) :
    t.Inv := by
  obtain ⟨hmem, hrest⟩ := hs
  have hgt := p.programEnd_gt
  have hle := p.programEnd_le
  unfold State.load at h
  split at h
  · cases h
    exact ⟨Memory.writeBytes_wf _ _ _ hmem (by omega), hrest⟩
  · cases h

theorem State.setConfig_inv {s : State} (hs : s.Inv) (q : ConfigRequest) : (s.setConfig q).Inv := by
  obtain ⟨hmem, hsp, hcyc, hrest⟩ := hs
  exact ⟨hmem, hsp, Cfg.update_cycles_pos hcyc q, hrest⟩

/-- A tick of the host is a run of steps, and every step keeps the invariant. -/
theorem tick_inv {s t : State} (h0 : s.tickLeft = 0) (h : tick s = .next t) (hs : s.Inv) : t.Inv := by
  have ⟨_, _, hcyc, _⟩ := hs
  rw [← tickIsARunOfSteps s h0 hcyc] at h
  exact run_keeps stepKeepsInvariant _ hs h

/-- Settles O20, transaction by transaction. -/
theorem hostMovesKeepInvariant : Obligations.HostMovesKeepInvariant := by
  unfold Obligations.HostMovesKeepInvariant
  intro p m s t r hs h
  obtain ⟨h0, rfl | rfl | ⟨bytes, hl⟩ | ⟨k, b, rfl⟩ | ⟨q, rfl⟩ | ht⟩ := hostAct_next_cases h
  · exact hs
  · exact State.resetWith_inv p
  · exact State.load_inv hl hs
  · exact hs
  · exact State.setConfig_inv hs q
  · exact tick_inv h0 ht hs

/-! ## Canonical memories -/

/-- The first cell of a canonical memory is visible: its address reads otherwise in a memory that starts above it. -/
theorem Memory.read_first_ne {lo b : Nat} {w : Byte} {rest m : Memory} (hc : Memory.wfFrom lo ((b, w) :: rest) = true)
    (hm : Memory.wfFrom (b + 1) m = true) : Memory.read ((b, w) :: rest) b ≠ m.read b := by
  obtain ⟨-, -, hw, -⟩ := (Memory.wfFrom_cons _ _ _ _).1 hc
  rw [Memory.read_cons, if_pos rfl, Memory.read_below m hm (Nat.lt_succ_self b)]
  exact hw

theorem Memory.eq_of_read_eq {lo : Nat} {m m' : Memory} (hm : Memory.wfFrom lo m = true)
    (hm' : Memory.wfFrom lo m' = true) (h : ∀ a, m.read a = m'.read a) : m = m' := by
  induction m generalizing lo m' with
  | nil =>
    cases m' with
    | nil => rfl
    | cons c' rest' => exact absurd (h c'.1).symm (Memory.read_first_ne hm' rfl)
  | cons c rest ih =>
    obtain ⟨b, w⟩ := c
    obtain ⟨h1, h2, h3, h4⟩ := (Memory.wfFrom_cons _ _ _ _).1 hm
    cases m' with
    | nil => exact absurd (h b) (Memory.read_first_ne hm rfl)
    | cons c' rest' =>
      obtain ⟨b', w'⟩ := c'
      obtain ⟨h1', h2', h3', h4'⟩ := (Memory.wfFrom_cons _ _ _ _).1 hm'
      obtain hlt | rfl | hgt := Nat.lt_trichotomy b b'
      · exact absurd (h b) (Memory.read_first_ne hm ((Memory.wfFrom_cons _ _ _ _).2 ⟨hlt, h2', h3', h4'⟩))
      · have hw : w = w' := by simpa [Memory.read_cons] using h b
        have hrest : ∀ a, Memory.read rest a = Memory.read rest' a := fun a => by
          by_cases ha : a = b
          · rw [ha, Memory.read_below rest h4 (Nat.lt_succ_self b), Memory.read_below rest' h4' (Nat.lt_succ_self b)]
          · simpa [Memory.read_cons, ha] using h a
        rw [hw, ih h4 h4' hrest]
      · exact absurd (h b').symm (Memory.read_first_ne hm' ((Memory.wfFrom_cons _ _ _ _).2 ⟨hgt, h2, h3, h4⟩))

/-- Settles O22, by induction on both lists of cells. -/
theorem canonicalMemoryIsItsReads : Obligations.CanonicalMemoryIsItsReads := by
  unfold Obligations.CanonicalMemoryIsItsReads
  exact fun _ _ hm hm' h => Memory.eq_of_read_eq hm hm' h

end Sys2Proof.Machine
end

section
/-! The fatal conditions of memory accesses, and the fetch (20_memory.md R53, R55; 30_encoding.md R78; 60_exceptions.md
R204). -/

namespace Sys2Proof.Machine

/-! ## Taking a fatal condition -/

/-- The shared operation does what the statements ask of a fatal condition. -/
theorem State.raiseFatal_takesFatal (s : State) (c : FatalCause) (n : Nat) (w : Option Word) :
    TakesFatal s (s.raiseFatal c n w) c n w := ⟨rfl, rfl, rfl, fun _ => rfl⟩

/-- A range-checked instruction whose last address is above 0xFFF. -/
theorem withRange_takesFatal {s : State} {n : Nat} (hn : n ≠ 0) (h : 0x1000 < s.i.toNat + n) (i : Instr) (t : State) :
    ∃ u, withRange s n i t = .next u ∧
      TakesFatal s u .memOutOfRange (max s.i.toNat 0x1000) (some (encodeWord i)) := by
  rcases withRange_cases s n i t with ⟨-, e⟩ | ⟨hr, -⟩
  · exact ⟨_, e, s.raiseFatal_takesFatal _ _ _⟩
  · omega

/-- Settles O15: each of the four is its effect behind the one shared range check. -/
theorem memoryRangeIsFatal : Obligations.MemoryRangeIsFatal := by
  unfold Obligations.MemoryRangeIsFatal
  intro x y n s
  refine ⟨fun hn h => ?_, fun h => ?_, fun h => ⟨?_, ?_⟩⟩
  · have hpos : n.toNat ≠ 0 := fun h0 => hn (BitVec.eq_of_toNat_eq h0)
    exact withRange_takesFatal hpos (by omega) (.drw x y n) _
  · exact withRange_takesFatal (by decide) (by omega) (.ldB x) _
  · exact withRange_takesFatal (Nat.succ_ne_zero x.toNat) (Nat.succ_le_succ h) (.storeRegs x) _
  · exact withRange_takesFatal (Nat.succ_ne_zero x.toNat) (Nat.succ_le_succ h) (.loadRegs x) _

/-! ## The fetch -/

theorem State.fetch_error {s : State} (h : 0xFFE < s.pc.toNat) : s.fetch = .error (max s.pc.toNat 0x1000) := by
  rcases s.fetch_cases with ⟨-, e⟩ | ⟨hle, -⟩
  · exact e
  · omega

theorem State.fetch_ok {s : State} (h : s.pc.toNat ≤ 0xFFE) :
    s.fetch = .ok (wordOfBytes (s.mem.read s.pc.toNat) (s.mem.read (s.pc.toNat + 1))) := by
  rcases s.fetch_cases with ⟨hgt, -⟩ | ⟨-, e⟩
  · omega
  · exact e

/-- The two bytes of a word at `pc` are fetched as that word. -/
theorem State.fetch_of_readBytes {s : State} {w : Word} (h : s.pc.toNat ≤ 0xFFE)
    (hb : s.mem.readBytes s.pc.toNat 2 = bytesOfWord w) : s.fetch = .ok w := by
  obtain ⟨hhi, hlo⟩ :
      s.mem.read s.pc.toNat = w.extractLsb' 8 8 ∧ s.mem.read (s.pc.toNat + 1) = w.extractLsb' 0 8 := by
    simpa [Memory.readBytes, bytesOfWord] using hb
  rw [State.fetch_ok h, hhi, hlo, wordOfBytes_bytesOfWord]

/-- Two bytes stored at `pc` are fetched in that order. -/
theorem State.fetch_store {s : State} (h : s.pc.toNat ≤ 0xFFE) (hm : s.mem.wf = true) (hi lo : Byte) :
    (s.setMem (s.mem.writeBytes s.pc.toNat [hi, lo])).fetch = .ok (wordOfBytes hi lo) := by
  have hfit : s.pc.toNat + [hi, lo].length ≤ memSize := Nat.add_le_add_right h 2
  rw [State.fetch_ok (s := s.setMem (s.mem.writeBytes s.pc.toNat [hi, lo])) h]
  simp [Memory.read_writeBytes _ _ _ _ hm hfit]

theorem wordOfBytes_toNat (hi lo : Byte) : (wordOfBytes hi lo).toNat = hi.toNat * 256 + lo.toNat := by
  rw [wordOfBytes, BitVec.toNat_append, ← Nat.shiftLeft_add_eq_or_of_lt lo.isLt, Nat.shiftLeft_eq]

theorem wordOfBytes_getLsbD_high (hi lo : Byte) (b : Nat) : (wordOfBytes hi lo).getLsbD (8 + b) = hi.getLsbD b := by
  exact (BitVec.getLsbD_append (x := hi) (y := lo)).trans (by simp)

theorem wordOfBytes_getLsbD_low (hi lo : Byte) {b : Nat} (hb : b < 8) :
    (wordOfBytes hi lo).getLsbD b = lo.getLsbD b := by
  exact (BitVec.getLsbD_append (x := hi) (y := lo)).trans (if_pos hb)

/-- Settles O7. -/
theorem fetchReadsTheHighByteFirst : Obligations.FetchReadsTheHighByteFirst := by
  unfold Obligations.FetchReadsTheHighByteFirst
  intro s h
  refine ⟨⟨_, State.fetch_ok h, wordOfBytes_toNat _ _, fun b hb => ⟨?_, ?_⟩⟩, fun hi lo hm => ?_⟩
  · exact wordOfBytes_getLsbD_high _ _ b
  · exact wordOfBytes_getLsbD_low _ _ hb
  · exact ⟨_, State.fetch_store h hm hi lo, wordOfBytes_toNat hi lo⟩

/-! ## The fatal conditions of the cycle -/

theorem cycle_of_fetch_error {s : State} {a : Nat} (hs : s.halted = false) (hf : s.fetch = .error a) :
    cycle s = .next (s.raiseFatal .memOutOfRange a none) := by
  simp [cycle, hs, hf]

theorem cycle_of_decode_error {s : State} {w : Word} {e : DecodeError} (hs : s.halted = false) (hf : s.fetch = .ok w)
    (hd : decodeWord w = .error e) : cycle s = .next (s.raiseFatal .unknownOpcode w.toNat (some w)) := by
  simp [cycle, hs, hf, hd]

/-- A cycle that takes a fatal condition ends its step, and with it the tick. -/
theorem step_of_cycle_fatal {s : State} {c : FatalCause} {n : Nat} {w : Option Word} (hs : s.halted = false)
    (hc : cycle s = .next (s.raiseFatal c n w)) : step s = .next ((s.raiseFatal c n w).setTickLeft 0) := by
  rw [step_running hs, hc]
  exact congrArg Host.Outcome.next (endCycle_halted (s.raiseFatal_halted c n w) _)

/-- Settles O9: the fetch comes first, the classification of its word second. -/
theorem cycleFatalConditions : Obligations.CycleFatalConditions := by
  unfold Obligations.CycleFatalConditions
  constructor
  · intro s hs hpc
    have hinfo : (if s.pc.toNat = 0xFFF then 0x1000 else s.pc.toNat) = max s.pc.toNat 0x1000 := by split_ifs <;> omega
    have hc := cycle_of_fetch_error hs (State.fetch_error hpc)
    rw [hinfo]
    exact ⟨_, hc, s.raiseFatal_takesFatal _ _ _, step_of_cycle_fatal hs hc⟩
  · intro s w hs hpc hb hd
    have hc := cycle_of_decode_error hs (State.fetch_of_readBytes hpc hb) hd
    exact ⟨_, hc, s.raiseFatal_takesFatal _ _ _, step_of_cycle_fatal hs hc⟩

end Sys2Proof.Machine
end

section
/-! The frame of memory (20_memory.md R52, R63): a byte outside the cells an instruction stores to is as it was. -/

namespace Sys2Proof.Machine

theorem AfterWrites.mem_read_eq {i : Instr} {s t : State} (h : AfterWrites i s t) (hm : s.mem.wf = true) {a : Nat}
    (ha : ¬ (s.i.toNat ≤ a ∧ a < s.i.toNat + i.storeCount)) : t.mem.read a = s.mem.read a := by
  induction h with
  | start => rfl
  | store ht bytes hi hr ih =>
    rw [State.setMem_mem, Memory.read_writeBytes _ _ _ _ (ht.mem_wf hm) (by rw [hi]; exact hr), hi, if_neg ha, ih]
  | _ => assumption

/-- The bytes an instruction stores, by instruction: only LD B and LD [I] have any. -/
theorem storeCount_cases (i : Instr) :
    (∃ x, i = .ldB x ∧ i.storeCount = 3) ∨ (∃ x, i = .storeRegs x ∧ i.storeCount = x.toNat + 1) ∨
      i.storeCount = 0 := by
  cases i with
  | ldB x => exact .inl ⟨x, rfl, rfl⟩
  | storeRegs x => exact .inr (.inl ⟨x, rfl, rfl⟩)
  | _ => exact .inr (.inr rfl)

/-- Settles O25: a fatal condition stores nothing, and the permitted stores reach the cells of the two instructions
alone. -/
theorem memoryChangesOnlyByTheTwoStores : Obligations.MemoryChangesOnlyByTheTwoStores := by
  unfold Obligations.MemoryChangesOnlyByTheTwoStores
  intro i s t a hm h hne
  obtain ⟨c, n, rfl⟩ | hw := exec_next_cases h
  · exact absurd rfl hne
  · obtain ⟨hlo, hhi⟩ : s.i.toNat ≤ a ∧ a < s.i.toNat + i.storeCount :=
      not_not.1 fun ha => hne (hw.mem_read_eq hm ha)
    obtain ⟨x, rfl, hc⟩ | ⟨x, rfl, hc⟩ | hc := storeCount_cases i <;> rw [hc] at hhi
    · exact .inl ⟨x, rfl, hlo, by omega⟩
    · exact .inr ⟨x, rfl, hlo, by omega⟩
    · omega

end Sys2Proof.Machine
end

section
/-! The fields of a word as numbers (30_encoding.md R71). -/

namespace Sys2Proof

theorem toNat_extractLsb' (w : Word) (start len : Nat) :
    (w.extractLsb' start len).toNat = w.toNat / 2 ^ start % 2 ^ len := by
  rw [BitVec.extractLsb'_toNat, Nat.shiftRight_eq_div_pow]

theorem nnn_eq_xyn (w : Word) : nnnOf w = xOf w ++ yOf w ++ nOf w := by
  apply BitVec.eq_of_getLsbD_eq; intro i hi
  grind [nnnOf, xOf, yOf, nOf]

theorem nn_eq_yn (w : Word) : nnOf w = yOf w ++ nOf w := by
  apply BitVec.eq_of_getLsbD_eq; intro i hi
  grind [nnOf, yOf, nOf]

/-- Settles O1: a field is the quotient by the weight of its lowest bit, reduced to its width. -/
theorem fieldsOfAWord : Obligations.FieldsOfAWord := by
  unfold Obligations.FieldsOfAWord
  intro w
  have hop : (opOf w).toNat = w.toNat / 4096 := by
    have := w.isLt
    exact (toNat_extractLsb' w 12 4).trans (Nat.mod_eq_of_lt (by omega))
  refine ⟨hop, toNat_extractLsb' w 8 4, toNat_extractLsb' w 4 4, ?_, ?_, ?_, nnn_eq_xyn w, nn_eq_yn w⟩
  · simp [nOf]
  · simp [nnOf]
  · simp [nnnOf]

end Sys2Proof
end

section
/-! Decoder and encoder are each other's inverse (30_encoding.md R72 to R77, R80 to R82): every word is the encoding of
one well-formed instruction, which it decodes to, or one of the unknown words. -/

namespace Sys2Proof

/-! ## A word with known fields -/

theorem nnn_eq_word {w : Word} {c : Nibble} (hop : opOf w = c) : c ++ nnnOf w = w := by
  rw [← hop, word_eq_nnn]

theorem xnn_eq_word {w : Word} {c : Nibble} {b : Byte} (hop : opOf w = c) (hnn : nnOf w = b) :
    c ++ xOf w ++ b = w := by
  rw [← hop, ← hnn, word_eq_xnn]

theorem xyn_eq_word {w : Word} {c n : Nibble} (hop : opOf w = c) (hn : nOf w = n) :
    c ++ xOf w ++ yOf w ++ n = w := by
  rw [← hop, ← hn, word_eq_xyn]

theorem wellFormed_sys_iff (nnn : Addr) :
    (Instr.sys nnn).WellFormed ↔ nnn.extractLsb' 0 8 ≠ 0xE0#8 ∧ nnn.extractLsb' 0 8 ≠ 0xEE#8 := by
  simp [Instr.WellFormed, Instr.wellFormed]

theorem nnOf_eq_low_nnnOf (w : Word) : nnOf w = (nnnOf w).extractLsb' 0 8 := by
  rw [← nnOf_nnn (opOf w), word_eq_nnn]

/-! ## What the classification answers -/

/-- The words of R82 that have no slot, by subgroup. -/
def UnknownWord (w : Word) : Prop :=
  (opOf w = 8 ∧ nOf w ∈ [0x8#4, 0x9#4, 0xA#4, 0xB#4, 0xC#4, 0xD#4, 0xF#4]) ∨
  (opOf w = 0xE ∧ nnOf w ∉ [0x9E#8, 0xA1#8]) ∨
  (opOf w = 0xF ∧ nnOf w ∉ [0x07#8, 0x0A#8, 0x15#8, 0x18#8, 0x1E#8, 0x29#8, 0x33#8, 0x55#8, 0x65#8])

/-- The two answers to a word: an instruction it is the encoding of, or the unknown sentinel. -/
inductive Reading (w : Word) : Except DecodeError Instr → Prop where
  | instr {i : Instr} (hwf : i.WellFormed) (henc : encodeWord i = w) : Reading w (.ok i)
  | unknown (hu : UnknownWord w) : Reading w (.error (.unknownOpcode w))

/-- The nibbles that are no key of subgroup 8 are those that are none of its nine keys. -/
theorem unknown8_iff {n : Nibble} : n ∈ [0x8#4, 0x9#4, 0xA#4, 0xB#4, 0xC#4, 0xD#4, 0xF#4] ↔
    n ∉ [0x0#4, 0x1#4, 0x2#4, 0x3#4, 0x4#4, 0x5#4, 0x6#4, 0x7#4, 0xE#4] := by
  revert n
  decide

/-- The last arm of the first level is group F. -/
theorem nibble_eq_F {n : Nibble} (h : n ∉ [0x0#4, 0x1#4, 0x2#4, 0x3#4, 0x4#4, 0x5#4, 0x6#4, 0x7#4, 0x8#4, 0x9#4, 0xA#4,
    0xB#4, 0xC#4, 0xD#4, 0xE#4]) : n = 0xF := by
  revert n
  decide

theorem classify0_reading {w : Word} (hop : opOf w = 0) : Reading w (.ok (classify0 w)) := by
  unfold classify0
  split
  · next hnn => exact .instr rfl (xnn_eq_word hop (BitVec.eq_of_toNat_eq hnn))
  · next hnn => exact .instr rfl (xnn_eq_word hop (BitVec.eq_of_toNat_eq hnn))
  · next hcls hret =>
    refine .instr ?_ (nnn_eq_word hop)
    rw [wellFormed_sys_iff, ← nnOf_eq_low_nnnOf]
    exact ⟨fun h => hcls (congrArg BitVec.toNat h), fun h => hret (congrArg BitVec.toNat h)⟩

theorem classify8_reading {w : Word} (hop : opOf w = 8) : Reading w (classify8 w) := by
  unfold classify8
  split
  case h_10 =>
    refine .unknown (.inl ⟨hop, ?_⟩)
    rw [unknown8_iff]
    simp_all [← BitVec.toNat_inj]
  all_goals next hn => exact .instr rfl (xyn_eq_word hop (BitVec.eq_of_toNat_eq hn))

theorem classifyE_reading {w : Word} (hop : opOf w = 0xE) : Reading w (classifyE w) := by
  unfold classifyE
  split
  case h_3 =>
    refine .unknown (.inr (.inl ⟨hop, ?_⟩))
    simp_all [← BitVec.toNat_inj]
  all_goals next hnn => exact .instr rfl (xnn_eq_word hop (BitVec.eq_of_toNat_eq hnn))

theorem classifyF_reading {w : Word} (hop : opOf w = 0xF) : Reading w (classifyF w) := by
  unfold classifyF
  split
  case h_10 =>
    refine .unknown (.inr (.inr ⟨hop, ?_⟩))
    simp_all [← BitVec.toNat_inj]
  all_goals next hnn => exact .instr rfl (xnn_eq_word hop (BitVec.eq_of_toNat_eq hnn))

theorem decodeWord_reading (w : Word) : Reading w (decodeWord w) := by
  unfold decodeWord
  split
  -- the four groups with a second level
  case h_1 hop => exact classify0_reading (BitVec.eq_of_toNat_eq hop)
  case h_9 hop => exact classify8_reading (BitVec.eq_of_toNat_eq hop)
  case h_15 hop => exact classifyE_reading (BitVec.eq_of_toNat_eq hop)
  case h_16 =>
    refine classifyF_reading (nibble_eq_F ?_)
    simp_all [← BitVec.toNat_inj]
  -- format NNN
  case h_2 hop | h_3 hop | h_11 hop | h_12 hop => exact .instr rfl (nnn_eq_word (BitVec.eq_of_toNat_eq hop))
  -- format XYN
  case h_6 hop | h_10 hop | h_14 hop => exact .instr rfl (xyn_eq_word (BitVec.eq_of_toNat_eq hop) rfl)
  -- format XNN
  all_goals next hop => exact .instr rfl (xnn_eq_word (BitVec.eq_of_toNat_eq hop) rfl)

/-- Settles O4: the reading of a word that decodes. -/
theorem encodeOfDecode : Obligations.EncodeOfDecode := by
  unfold Obligations.EncodeOfDecode
  intro w i h
  have hr := decodeWord_reading w
  rw [h] at hr
  cases hr with
  | instr hwf henc => exact ⟨hwf, henc⟩

/-! ## Decoding an encoding -/

/-- In subgroup 0 a low byte that is neither CLS's nor RET's leaves SYS (R76). -/
theorem classify0_eq_sys {w : Word} (hcls : nnOf w ≠ 0xE0) (hret : nnOf w ≠ 0xEE) : classify0 w = .sys (nnnOf w) := by
  unfold classify0
  split
  · next h => exact absurd (BitVec.eq_of_toNat_eq h) hcls
  · next h => exact absurd (BitVec.eq_of_toNat_eq h) hret
  · rfl

theorem decodeWord_encodeWord {i : Instr} (h : i.WellFormed) : decodeWord (encodeWord i) = .ok i := by
  cases i with
  | sys nnn =>
    obtain ⟨hcls, hret⟩ := (wellFormed_sys_iff nnn).1 h
    have h0 : classify0 (0x0#4 ++ nnn) = .sys nnn := by
      rw [classify0_eq_sys (by simpa using hcls) (by simpa using hret), nnnOf_nnn]
    simp [encodeWord, decodeWord, h0]
  | cls ign | ret ign => simp [encodeWord, decodeWord, classify0]
  | ldReg x y | orReg x y | andReg x y | xorReg x y | addReg x y | sub x y | shr x y | subn x y | shl x y =>
    simp [encodeWord, decodeWord, classify8]
  | skp x | sknp x => simp [encodeWord, decodeWord, classifyE]
  | ldVxDt x | ldVxK x | ldDtVx x | ldStVx x | addI x | ldF x | ldB x | storeRegs x | loadRegs x =>
    simp [encodeWord, decodeWord, classifyF]
  | _ => simp [encodeWord, decodeWord]

/-- The bytes of a word, whatever follows them, decode to what the word decodes to. -/
theorem decode_bytesOfWord {w : Word} {i : Instr} (h : decodeWord w = .ok i) (rest : List Byte) :
    decode (bytesOfWord w ++ rest) = .ok (i, rest) := by
  simp [bytesOfWord, decode, wordOfBytes_bytesOfWord, h]

/-- Settles O3: the bytes make up the word again, and the word decodes to its instruction. -/
theorem decodeOfEncode : Obligations.DecodeOfEncode := by
  unfold Obligations.DecodeOfEncode
  exact fun i rest h => decode_bytesOfWord (decodeWord_encodeWord h) rest

/-- Settles O2, by running the decoder. -/
theorem decodesSampleWords : Obligations.DecodesSampleWords := by
  unfold Obligations.DecodesSampleWords
  decide

/-! ## The unknown words -/

theorem not_unknownWord_encodeWord (i : Instr) : ¬ UnknownWord (encodeWord i) := by
  cases i with
  | _ => simp [UnknownWord, encodeWord]

/-- Settles O6: of the two readings of a word, only that of an unknown word is the sentinel, and no encoding is an
unknown word. -/
theorem unknownWordsAreThese : Obligations.UnknownWordsAreThese := by
  unfold Obligations.UnknownWordsAreThese
  intro w
  have hr := decodeWord_reading w
  generalize decodeWord w = d at hr
  cases hr with
  | instr _ henc => exact iff_of_false nofun (henc ▸ not_unknownWord_encodeWord _)
  | unknown hu => exact iff_of_true rfl hu

end Sys2Proof
end

section
/-! The opcode map of masks (30_encoding.md R77, R81) gives a word the slot the two-level classification gives it. -/

namespace Sys2Proof

/-- A row of mask 0xF000: it fixes the command group. -/
def opRow (k : Nat) (c : Nibble) : MapRow := ⟨k, 0xF000, c ++ 0#12⟩

/-- A row of mask 0xF0FF: it fixes the command group and the low byte. -/
def opNnRow (k : Nat) (c : Nibble) (b : Byte) : MapRow := ⟨k, 0xF0FF, c ++ 0#4 ++ b⟩

/-- A row of mask 0xF00F: it fixes the command group and the low nibble. -/
def opNRow (k : Nat) (c n : Nibble) : MapRow := ⟨k, 0xF00F, c ++ 0#4 ++ 0#4 ++ n⟩

theorem opcodeMap_eq : opcodeMap =
    [opRow 1 0x0, opNnRow 2 0x0 0xE0, opNnRow 3 0x0 0xEE, opRow 4 0x1, opRow 5 0x2, opRow 6 0x3, opRow 7 0x4,
      opRow 8 0x5, opRow 9 0x6, opRow 10 0x7, opNRow 11 0x8 0x0, opNRow 12 0x8 0x1, opNRow 13 0x8 0x2,
      opNRow 14 0x8 0x3, opNRow 15 0x8 0x4, opNRow 16 0x8 0x5, opNRow 17 0x8 0x6, opNRow 18 0x8 0x7,
      opNRow 19 0x8 0xE, opRow 20 0x9, opRow 21 0xA, opRow 22 0xB, opRow 23 0xC, opRow 24 0xD, opNnRow 25 0xE 0x9E,
      opNnRow 26 0xE 0xA1, opNnRow 27 0xF 0x07, opNnRow 28 0xF 0x0A, opNnRow 29 0xF 0x15, opNnRow 30 0xF 0x18,
      opNnRow 31 0xF 0x1E, opNnRow 32 0xF 0x29, opNnRow 33 0xF 0x33, opNnRow 34 0xF 0x55, opNnRow 35 0xF 0x65] := rfl

@[simp] theorem matchesWord_opRow (k : Nat) (c : Nibble) (w : Word) :
    (opRow k c).matchesWord w = decide (opOf w = c) :=
  decide_eq_decide.2 (mask_op_iff w c)

@[simp] theorem matchesWord_opNnRow (k : Nat) (c : Nibble) (b : Byte) (w : Word) :
    (opNnRow k c b).matchesWord w = decide (opOf w = c ∧ nnOf w = b) :=
  decide_eq_decide.2 (mask_op_nn_iff w c b)

@[simp] theorem matchesWord_opNRow (k : Nat) (c n : Nibble) (w : Word) :
    (opNRow k c n).matchesWord w = decide (opOf w = c ∧ nOf w = n) :=
  decide_eq_decide.2 (mask_op_n_iff w c n)

@[simp] theorem opRow_slot (k : Nat) (c : Nibble) : (opRow k c).slot = k := rfl

@[simp] theorem opNnRow_slot (k : Nat) (c : Nibble) (b : Byte) : (opNnRow k c b).slot = k := rfl

@[simp] theorem opNRow_slot (k : Nat) (c n : Nibble) : (opNRow k c n).slot = k := rfl

@[simp] theorem preferRow_none (r : MapRow) : preferRow none r = some r := rfl

/-- The rows of CLS and RET win over that of SYS (R77). -/
@[simp] theorem preferRow_opRow_opNnRow (k j : Nat) (c d : Nibble) (b : Byte) :
    preferRow (some (opRow k c)) (opNnRow j d b) = some (opNnRow j d b) := by
  have hmask : maskBits 0xF000 < maskBits 0xF0FF := by decide
  exact if_pos hmask

theorem slotByMap_encodeWord {i : Instr} (h : i.WellFormed) : slotByMap (encodeWord i) = some i.slot := by
  cases i with
  | sys nnn =>
    obtain ⟨hcls, hret⟩ := (wellFormed_sys_iff nnn).1 h
    simp [slotByMap, opcodeMap_eq, encodeWord, Instr.slot, hcls, hret]
  | _ => simp [slotByMap, opcodeMap_eq, encodeWord, Instr.slot]

theorem slotByMap_of_unknown {w : Word} (h : UnknownWord w) : slotByMap w = none := by
  obtain ⟨hop, hn⟩ | ⟨hop, hnn⟩ | ⟨hop, hnn⟩ := h
  · rw [unknown8_iff] at hn
    simp_all [slotByMap, opcodeMap_eq]
  · simp_all [slotByMap, opcodeMap_eq]
  · simp_all [slotByMap, opcodeMap_eq]

/-- Settles O5: a word is the encoding of an instruction, whose row wins, or an unknown word, which no row matches. -/
theorem classificationIsTheOpcodeMap : Obligations.ClassificationIsTheOpcodeMap := by
  unfold Obligations.ClassificationIsTheOpcodeMap
  intro w
  have hr := decodeWord_reading w
  generalize decodeWord w = d at hr
  cases hr with
  | instr hwf henc => exact henc ▸ slotByMap_encodeWord hwf
  | unknown hu => exact slotByMap_of_unknown hu

end Sys2Proof
end

section
/-! The step that runs the instruction at `pc` (30_encoding.md R78; 60_exceptions.md R212, R213). -/

namespace Sys2Proof.Machine

theorem decodeWord_of_decode_pair {hi lo : Byte} {i : Instr} (h : decode [hi, lo] = .ok (i, [])) :
    decodeWord (wordOfBytes hi lo) = .ok i := by
  unfold decode at h
  cases hd : decodeWord (wordOfBytes hi lo) with
  | ok j => simpa [hd] using h
  | error e => simp [hd] at h

theorem cycle_of_decode_ok {s : State} {w : Word} {i : Instr} (hs : s.halted = false) (hf : s.fetch = .ok w)
    (hd : decodeWord w = .ok i) : cycle s = exec i s := by
  simp [cycle, hs, hf, hd]

theorem countDown_eq (t : Byte) : countDown t = BitVec.ofNat 8 (t.toNat - 1) := by
  unfold countDown
  split
  · next h => rw [h]; rfl
  · next h => bv_omega

theorem endCycle_of_le_one {s : State} {n : Nat} (hs : s.halted = false) (hn : n ≤ 1) :
    endCycle n s = (timerStep s).setTickLeft 0 := by
  simp [endCycle, hs, hn]

theorem endCycle_of_one_lt {s : State} {n : Nat} (hs : s.halted = false) (hn : 1 < n) :
    endCycle n s = s.setTickLeft (n - 1) := by
  simp [endCycle, hs, hn]

theorem timerStep_eq (s : State) : timerStep s =
    { s with dt := BitVec.ofNat 8 (s.dt.toNat - 1), st := BitVec.ofNat 8 (s.st.toNat - 1) } := by
  rw [timerStep, countDown_eq, countDown_eq]

/-- Settles O8: the bytes at `pc` are the fetched word, and its cycle is `exec`. -/
theorem stepRunsDecodedInstruction : Obligations.StepRunsDecodedInstruction := by
  unfold Obligations.StepRunsDecodedInstruction
  refine ⟨fun s i hs hpc _ hdec => ?_, fun s n => ⟨rfl, fun hs => endCycle_halted hs n, fun hs hn => ?_,
    fun hs hn => endCycle_of_one_lt hs hn⟩⟩
  · have hstep := step_running hs
    rw [cycle_of_decode_ok hs (State.fetch_ok hpc) (decodeWord_of_decode_pair hdec)] at hstep
    exact hstep
  · rw [endCycle_of_le_one hs hn, timerStep_eq]
    rfl

end Sys2Proof.Machine
end

section
/-! What an instruction does to `pc` (30_encoding.md R79). -/

namespace Sys2Proof.Machine

theorem advanced_advance {s u : State} (hpc : u.pc = s.pc) (d : Word) : Advanced s (u.advance d) d.toNat := by
  rw [Advanced, State.advance_pc, hpc, BitVec.toNat_add]

theorem advanced_skipIf (s : State) (c : Bool) : Advanced s (s.skipIf c) 2 ∨ Advanced s (s.skipIf c) 4 := by
  cases c with
  | false => exact .inl (advanced_advance rfl 2)
  | true => exact .inr (advanced_advance rfl 4)

theorem addrOperand_toNat (nnn : Addr) : (addrOperand nnn).toNat = nnn.toNat :=
  BitVec.toNat_setWidth_of_le (by decide)

theorem withKey_ok {s : State} {x : Nibble} (h : (s.getV x).toNat ≤ 15) (i : Instr) (t : State) :
    withKey s x i t = .next t := by
  rcases withKey_cases s x i t with ⟨hgt, -⟩ | ⟨-, e⟩
  · omega
  · exact e

/-! ## What is left when no fatal condition is taken -/

theorem withRange_running {s u t : State} {n : Nat} {i : Instr} (h : withRange s n i u = .next t)
    (ht : t.halted = false) : u = t := by
  rcases withRange_cases s n i u with ⟨-, e⟩ | ⟨-, e⟩ <;> cases e.symm.trans h
  · cases ht
  · rfl

theorem withKey_running {s u t : State} {x : Nibble} {i : Instr} (h : withKey s x i u = .next t)
    (ht : t.halted = false) : (s.getV x).toNat ≤ 15 ∧ u = t := by
  rcases withKey_cases s x i u with ⟨-, e⟩ | ⟨hk, e⟩ <;> cases e.symm.trans h
  · cases ht
  · exact ⟨hk, rfl⟩

theorem execCall_running {s t : State} {nnn : Addr} (h : execCall nnn s = .next t) (ht : t.halted = false) :
    t.pc = addrOperand nnn := by
  rcases execCall_cases nnn s with ⟨-, e⟩ | ⟨_, e⟩ <;> cases e.symm.trans h
  · cases ht
  · rfl

theorem execRet_running {s t : State} {ign : Nibble} (h : execRet ign s = .next t) (ht : t.halted = false) :
    some t.pc = s.stack[s.sp.toNat - 1]? := by
  rcases execRet_cases ign s with ⟨-, e⟩ | ⟨-, e⟩ | ⟨hs, -, e⟩ <;> cases e.symm.trans h
  · cases ht
  · exact (Vector.getElem?_eq_getElem hs).symm

/-- LD Vx, K stays until a key is down. -/
theorem execLdVxK_advanced {s t : State} {x : Nibble} (h : execLdVxK x s = .next t) :
    ((∀ (k : Nat) (hk : k < 16), s.keys[k] = false) → Advanced s t 0) ∧
      ((∃ (k : Nat) (hk : k < 16), s.keys[k] = true) → Advanced s t 2) := by
  rcases execLdVxK_cases x s with ⟨hup, e⟩ | ⟨k, hk, -, e⟩ <;> cases e.symm.trans h
  · refine ⟨fun _ => advanced_advance rfl 0, fun ⟨j, hj, hdown⟩ => ?_⟩
    rw [← State.keyDown_eq, hup j] at hdown
    cases hdown
  · refine ⟨fun hup => ?_, fun _ => advanced_advance rfl 2⟩
    rw [State.keyDown_eq s k (State.keyDown_lt hk), hup] at hk
    cases hk

/-- A key skip looks at no byte of memory. -/
theorem withKey_skip_running {s t : State} {x : Nibble} {i : Instr} {c : Bool}
    (h : withKey s x i (s.skipIf c) = .next t) (ht : t.halted = false) :
    (Advanced s t 2 ∨ Advanced s t 4) ∧
      ∀ m : Memory, withKey (s.setMem m) x i ((s.setMem m).skipIf c) = .next (t.setMem m) := by
  obtain ⟨hk, rfl⟩ := withKey_running h ht
  exact ⟨advanced_skipIf s c, fun m => withKey_ok (s := s.setMem m) hk i _⟩

/-- Settles O27, instruction by instruction; a range or key check that leaves the machine unhalted has passed. -/
theorem eachInstructionAdvancesAsListed : Obligations.EachInstructionAdvancesAsListed := by
  unfold Obligations.EachInstructionAdvancesAsListed
  intro i s t _ h ht
  cases i with
  | sys nnn =>
    cases h
    cases ht
  | jp nnn =>
    cases h
    exact addrOperand_toNat nnn
  | jpV0 nnn =>
    cases h
    rfl
  | call nnn => exact (congrArg BitVec.toNat (execCall_running h ht)).trans (addrOperand_toNat nnn)
  | ret ign => exact execRet_running h ht
  | ldVxK x => exact execLdVxK_advanced h
  | seImm x nn | sneImm x nn | seReg x y ign | sneReg x y ign =>
    cases h
    exact ⟨advanced_skipIf s _, fun m => rfl⟩
  | skp x | sknp x => exact withKey_skip_running h ht
  | drw | ldB | storeRegs | loadRegs =>
    obtain rfl := withRange_running h ht
    exact advanced_advance rfl 2
  | orReg x y | andReg x y | xorReg x y =>
    cases h
    exact advanced_advance (State.writeLogic_pc s x _) 2
  | _ =>
    cases h
    exact advanced_advance rfl 2

end Sys2Proof.Machine
end

section
/-! The encodings of the instructions, format by format (30_encoding.md R80, R81): the words a row of the opcode map
matches decode to the instruction made of their fields. -/

namespace Sys2Proof.Machine

/-- A word that a well-formed instruction encodes to decodes to it. -/
theorem decodeWord_of_encodeWord {i : Instr} {w : Word} (hwf : i.WellFormed) (h : encodeWord i = w) :
    decodeWord w = .ok i := h ▸ decodeWord_encodeWord hwf

/-- Format NNN: the group is fixed and the address is free. -/
theorem encodes_nnn (c : Nibble) {f : Addr → Instr} (hwf : ∀ a, (f a).WellFormed)
    (henc : ∀ a, encodeWord (f a) = c ++ a) : Encodes 0xF000 (c ++ 0#12) fun w => f (nnnOf w) := by
  intro w hw
  have hop := (mask_op_iff w c).1 hw
  exact decodeWord_of_encodeWord (hwf _) ((henc _).trans (nnn_eq_word hop))

/-- Formats X and Z: the group and the low byte are fixed and one nibble is free. -/
theorem encodes_x (c : Nibble) (b : Byte) {f : Nibble → Instr} (hwf : ∀ x, (f x).WellFormed)
    (henc : ∀ x, encodeWord (f x) = c ++ x ++ b) : Encodes 0xF0FF (c ++ 0#4 ++ b) fun w => f (xOf w) := by
  intro w hw
  obtain ⟨hop, hnn⟩ := (mask_op_nn_iff w c b).1 hw
  exact decodeWord_of_encodeWord (hwf _) ((henc _).trans (xnn_eq_word hop hnn))

end Sys2Proof.Machine
end

section
/-! SYS, JP, CALL, RET and JP V0 (40_control_flow.md R100 to R105), and the key bound of SKP and SKNP
(44_keypad_timers.md R151, R152). -/

namespace Sys2Proof.Machine

/-! ## SYS -/

theorem encodeWord_sys (nnn : Addr) : encodeWord (.sys nnn) = nnn.setWidth 16 := by
  rw [BitVec.setWidth_eq_append (by decide)]
  rfl

theorem encodeWord_sys_toNat (nnn : Addr) : (encodeWord (.sys nnn)).toNat = nnn.toNat := by
  rw [encodeWord_sys]
  exact addrOperand_toNat nnn

theorem decodeWord_sys {w : Word} (hop : opOf w = 0) (hcls : nnOf w ≠ 0xE0) (hret : nnOf w ≠ 0xEE) :
    decodeWord w = .ok (.sys (nnnOf w)) := by
  rw [nnOf_eq_low_nnnOf] at hcls hret
  exact decodeWord_of_encodeWord ((wellFormed_sys_iff _).2 ⟨hcls, hret⟩) (nnn_eq_word hop)

/-- Settles O13: what the handler records as info and as word is the encoding of SYS, which is its address. -/
theorem sysTakesUnknownOpcode : Obligations.SysTakesUnknownOpcode := by
  unfold Obligations.SysTakesUnknownOpcode
  refine ⟨fun w hw => decodeWord_sys ((mask_op_iff w 0).1 hw), fun nnn s => ⟨_, rfl, ?_⟩⟩
  rw [encodeWord_sys_toNat, encodeWord_sys]
  exact s.raiseFatal_takesFatal _ _ _

/-! ## The bounds of the stack and of the keys -/

theorem execCall_full {s : State} (h : 16 ≤ s.sp.toNat) (nnn : Addr) : execCall nnn s =
    .next (s.raiseFatal .stackOverflow s.sp.toNat (some (encodeWord (.call nnn)))) := by
  rcases execCall_cases nnn s with ⟨-, e⟩ | ⟨hlt, -⟩
  · exact e
  · omega

theorem execCall_room {s : State} (h : s.sp.toNat < 16) (nnn : Addr) : execCall nnn s =
    .next { s with stack := s.stack.set s.sp.toNat (s.pc + 2) h, sp := s.sp + 1, pc := addrOperand nnn } := by
  rcases execCall_cases nnn s with ⟨hge, -⟩ | ⟨_, e⟩
  · omega
  · exact e

theorem execRet_empty {s : State} (h : s.sp.toNat = 0) (ign : Nibble) : execRet ign s =
    .next (s.raiseFatal .stackUnderflow 0 (some (encodeWord (.ret ign)))) := by
  rcases execRet_cases ign s with ⟨-, e⟩ | ⟨hgt, -⟩ | ⟨-, hpos, -⟩
  · exact e
  · omega
  · omega

theorem execRet_popped {s : State} (hpos : 1 ≤ s.sp.toNat) (hle : s.sp.toNat ≤ 16) (ign : Nibble) : execRet ign s =
    .next { s with sp := s.sp - 1, pc := s.stack[s.sp.toNat - 1] } := by
  rcases execRet_cases ign s with ⟨h0, -⟩ | ⟨hgt, -⟩ | ⟨_, -, e⟩
  · rw [h0] at hpos
    exact absurd hpos (by decide)
  · omega
  · exact e

theorem withKey_takesFatal {s : State} {x : Nibble} (h : 15 < (s.getV x).toNat) (i : Instr) (t : State) :
    ∃ u, withKey s x i t = .next u ∧
      TakesFatal s u .keyIndexOutOfRange (s.getV x).toNat (some (encodeWord i)) := by
  rcases withKey_cases s x i t with ⟨-, e⟩ | ⟨hle, -⟩
  · exact ⟨_, e, s.raiseFatal_takesFatal _ _ _⟩
  · omega

/-- Settles O14: each of the four looks at its bound first and ends there. -/
theorem stackAndKeyBoundsAreFatal : Obligations.StackAndKeyBoundsAreFatal := by
  unfold Obligations.StackAndKeyBoundsAreFatal
  refine ⟨fun nnn s h => ?_, fun ign s h => ?_, fun x s h => ⟨?_, ?_⟩⟩
  · exact ⟨_, execCall_full h nnn, s.raiseFatal_takesFatal _ _ _⟩
  · exact ⟨_, execRet_empty h ign, s.raiseFatal_takesFatal _ _ _⟩
  · exact withKey_takesFatal h (.skp x) _
  · exact withKey_takesFatal h (.sknp x) _

/-! ## JP and JP V0 -/

theorem onlyPc_jump (s : State) (w : Word) : OnlyPc s (s.jump w) := ⟨rfl, fun _ => rfl⟩

theorem State.jump_self {s : State} {w : Word} (h : s.pc = w) : s.jump w = s := by
  subst h
  rfl

/-- Settles O29: a jump writes `pc` alone, and at 0xFFF the second byte of the next fetch does not exist. -/
theorem jpGoesToItsAddress : Obligations.JpGoesToItsAddress := by
  unfold Obligations.JpGoesToItsAddress
  refine ⟨encodes_nnn 1 (fun _ => rfl) fun _ => rfl, fun nnn s => ⟨s.jump (addrOperand nnn), rfl, ?_⟩⟩
  have hpc : (s.jump (addrOperand nnn)).pc.toNat = nnn.toNat := addrOperand_toNat nnn
  refine ⟨hpc, onlyPc_jump s _, fun hself => ?_, fun hlast => ?_⟩
  · exact State.jump_self (BitVec.eq_of_toNat_eq (hself.trans hpc.symm))
  · rw [State.fetch_error (by omega), hpc, hlast]
    rfl

/-- The target of JP V0 does not wrap: an address and a byte are far below 65536. -/
theorem offsetTarget_toNat (s : State) (nnn : Addr) :
    (offsetTarget s nnn).toNat = nnn.toNat + (s.getV (offsetRegister s nnn)).toNat := by
  have hnnn := nnn.isLt
  have hv := (s.getV (offsetRegister s nnn)).isLt
  rw [offsetTarget, BitVec.toNat_add, addrOperand_toNat, BitVec.toNat_setWidth_of_le (by decide)]
  exact Nat.mod_eq_of_lt (by omega)

/-- Settles O33: the quirk flag selects the register, the target is the same sum. -/
theorem jpV0AddsTheSelectedRegister : Obligations.JpV0AddsTheSelectedRegister := by
  unfold Obligations.JpV0AddsTheSelectedRegister
  refine ⟨encodes_nnn 0xB (fun _ => rfl) fun _ => rfl,
    fun nnn s => ⟨s.jump (offsetTarget s nnn), rfl, onlyPc_jump s _, fun hq => ?_, fun hq => ?_⟩⟩
  · rw [State.jump_pc, offsetTarget_toNat, offsetRegister, if_pos hq]
  · rw [State.jump_pc, offsetTarget_toNat, offsetRegister, if_neg (by simp [hq])]

/-! ## CALL and RET -/

/-- Settles O31: with room left, `sp` below 16 cannot wrap and the push sets the one entry at `sp`. -/
theorem callPushesTheNextAddress : Obligations.CallPushesTheNextAddress := by
  unfold Obligations.CallPushesTheNextAddress
  refine ⟨encodes_nnn 2 (fun _ => rfl) fun _ => rfl, fun nnn s h =>
    ⟨_, execCall_room h nnn, addrOperand_toNat nnn, ?_, fun k hk => ?_, rfl, fun _ => rfl⟩⟩
  · show (s.sp + 1).toNat = s.sp.toNat + 1
    bv_omega
  · rw [Vector.getElem_set]
    by_cases hks : s.sp.toNat = k
    · rw [if_pos hks, if_pos hks.symm]
      exact BitVec.toNat_add s.pc 2
    · rw [if_neg hks, if_neg (Ne.symm hks)]

/-- Settles O30: `sp` from 1 to 16 is what makes the entry below it exist. -/
theorem retRestoresTheTopEntry : Obligations.RetRestoresTheTopEntry := by
  unfold Obligations.RetRestoresTheTopEntry
  refine ⟨encodes_x 0 0xEE (fun _ => rfl) fun _ => rfl, fun ign s hpos hle =>
    ⟨_, execRet_popped hpos hle ign, ?_, (Vector.getElem?_eq_getElem _).symm, rfl, fun _ => rfl⟩⟩
  show (s.sp - 1).toNat = s.sp.toNat - 1
  bv_omega

/-- Settles O32: the popped entry is the one the CALL has set, and `sp` counts down to what it was. -/
theorem retAfterCallGoesOnBehindIt : Obligations.RetAfterCallGoesOnBehindIt := by
  unfold Obligations.RetAfterCallGoesOnBehindIt
  intro nnn ign s h
  refine ⟨_, execCall_room h nnn, fun u hstack hsp => ?_⟩
  have hsp' : u.sp = s.sp + 1 := hsp
  have hback : u.sp - 1 = s.sp := by bv_omega
  have htop : u.sp.toNat - 1 = s.sp.toNat := by bv_omega
  have hentry : u.stack[u.sp.toNat - 1] = s.pc + 2 := by
    simp only [htop, hstack, Vector.getElem_set_self]
  refine (execRet_popped (by bv_omega) (by bv_omega) ign).trans ?_
  rw [hback, hentry]

end Sys2Proof.Machine
end

section
/-! The compare-and-skip instructions SE and SNE (41_skips.md R110 to R114), with the two formats of their words. -/

namespace Sys2Proof.Machine

/-! ## Their formats -/

/-- Format XNN: the group is fixed, the register and the byte are free. -/
theorem encodes_xnn (c : Nibble) {f : Nibble → Byte → Instr} (hwf : ∀ x b, (f x b).WellFormed)
    (henc : ∀ x b, encodeWord (f x b) = c ++ x ++ b) :
    Encodes 0xF000 (c ++ 0#12) fun w => f (xOf w) (nnOf w) := by
  intro w hw
  have hop := (mask_op_iff w c).1 hw
  exact decodeWord_of_encodeWord (hwf _ _) ((henc _ _).trans (xnn_eq_word hop rfl))

/-- Format XYN: the group is fixed, both registers and the low nibble are free. -/
theorem encodes_xyn (c : Nibble) {f : Nibble → Nibble → Nibble → Instr} (hwf : ∀ x y n, (f x y n).WellFormed)
    (henc : ∀ x y n, encodeWord (f x y n) = c ++ x ++ y ++ n) :
    Encodes 0xF000 (c ++ 0#12) fun w => f (xOf w) (yOf w) (nOf w) := by
  intro w hw
  have hop := (mask_op_iff w c).1 hw
  exact decodeWord_of_encodeWord (hwf _ _ _) ((henc _ _ _).trans (xyn_eq_word hop rfl))

/-! ## The skip -/

theorem onlyPc_skipIf (s : State) (c : Bool) : OnlyPc s (s.skipIf c) := ⟨rfl, fun _ => rfl⟩

theorem advanced_skipIf_of_iff (s : State) {c : Bool} {p : Prop} [Decidable p] (h : c = true ↔ p) :
    Advanced s (s.skipIf c) (if p then 4 else 2) := by
  by_cases hp : p
  · rw [if_pos hp, h.2 hp]
    exact advanced_advance rfl 4
  · rw [if_neg hp, Bool.eq_false_iff.2 (mt h.1 hp)]
    exact advanced_advance rfl 2

/-- An instruction that skips on a test of the relation `p` writes `pc` alone, by 4 where `p` holds, else by 2. -/
theorem skips_of_exec {i : Instr} {s : State} {c : Bool} {p : Prop} [Decidable p]
    (hexec : exec i s = .next (s.skipIf c)) (h : c = true ↔ p) :
    ∃ t, exec i s = .next t ∧ OnlyPc s t ∧ Advanced s t (if p then 4 else 2) :=
  ⟨_, hexec, onlyPc_skipIf s c, advanced_skipIf_of_iff s h⟩

/-- Settles O34: the four differ in their test alone, which decides their relation. -/
theorem compareSkips : Obligations.CompareSkips := by
  unfold Obligations.CompareSkips
  refine ⟨encodes_xnn 3 (fun _ _ => rfl) fun _ _ => rfl, encodes_xnn 4 (fun _ _ => rfl) fun _ _ => rfl,
    encodes_xyn 5 (fun _ _ _ => rfl) fun _ _ _ => rfl, encodes_xyn 9 (fun _ _ _ => rfl) fun _ _ _ => rfl,
    fun x y ign nn s => ⟨?_, ?_, ?_, ?_⟩⟩
  · exact skips_of_exec rfl beq_iff_eq
  · exact skips_of_exec rfl bne_iff_ne
  · exact skips_of_exec rfl beq_iff_eq
  · exact skips_of_exec rfl bne_iff_ne

end Sys2Proof.Machine
end

section
/-! Register arithmetic, logic and RND (42_alu.md R120 to R134): each writes its result to registers, by one of the
three register writes, and advances by 2. -/

namespace Sys2Proof.Machine

/-! ## Their format -/

/-- Format XY: the group and the low nibble are fixed, both registers are free. -/
theorem encodes_xy (c n : Nibble) {f : Nibble → Nibble → Instr} (hwf : ∀ x y, (f x y).WellFormed)
    (henc : ∀ x y, encodeWord (f x y) = c ++ x ++ y ++ n) :
    Encodes 0xF00F (c ++ 0#4 ++ 0#4 ++ n) fun w => f (xOf w) (yOf w) := by
  intro w hw
  obtain ⟨hop, hn⟩ := (mask_op_n_iff w c n).1 hw
  exact decodeWord_of_encodeWord (hwf _ _) ((henc _ _).trans (xyn_eq_word hop hn))

/-! ## The frame of a register write -/

theorem onlyRegsPc_setV (s : State) (x : Nibble) (b : Byte) (d : Word) : OnlyRegsPc s ((s.setV x b).advance d) :=
  ⟨rfl, fun _ => rfl⟩

theorem onlyRegsPc_writeResult (s : State) (x : Nibble) (r : AluResult) (d : Word) :
    OnlyRegsPc s ((s.writeResult x r).advance d) := ⟨rfl, fun _ => rfl⟩

theorem onlyRegsPc_writeLogic (s : State) (x : Nibble) (b : Byte) (d : Word) :
    OnlyRegsPc s ((s.writeLogic x b).advance d) := by
  unfold State.writeLogic
  split
  · exact ⟨rfl, fun _ => rfl⟩
  · exact onlyRegsPc_setV s x b d

/-! ## What an instruction that makes one of the three writes does -/

section

variable {i : Instr} {s : State} {x : Nibble}

/-- The write of the destination alone. -/
theorem regs_of_exec_setV {b : Byte} (hexec : exec i s = .next ((s.setV x b).advance 2)) :
    ∃ t, exec i s = .next t ∧ OnlyRegsPc s t ∧ Advanced s t 2 ∧ ∀ k, t.getV k = if k = x then b else s.getV k :=
  ⟨_, hexec, onlyRegsPc_setV s x b 2, advanced_advance rfl 2, fun k => State.getV_setV s x k b⟩

/-- The write of a result, read as numbers. -/
theorem regs_of_exec_writeResult {r : AluResult} {flag value : Nat}
    (hexec : exec i s = .next ((s.writeResult x r).advance 2)) (hflag : (flagByte r.flag).toNat = flag)
    (hvalue : r.value.toNat = value) :
    ∃ t, exec i s = .next t ∧ OnlyRegsPc s t ∧ Advanced s t 2 ∧
      ∀ k, (t.getV k).toNat = if k = 15 then flag else if k = x then value else (s.getV k).toNat := by
  refine ⟨_, hexec, onlyRegsPc_writeResult s x r 2, advanced_advance rfl 2, fun k => ?_⟩
  rw [State.getV_advance, State.getV_writeResult, apply_ite BitVec.toNat, apply_ite BitVec.toNat, hflag, hvalue]

/-- The write of a logic result, read as bits. -/
theorem regs_of_exec_writeLogic {v : Byte} {bit : Nat → Bool}
    (hexec : exec i s = .next ((s.writeLogic x v).advance 2)) (hbit : ∀ b, v.getLsbD b = bit b) :
    ∃ t, exec i s = .next t ∧ OnlyRegsPc s t ∧ Advanced s t 2 ∧
      ∀ k b, b < 8 → (t.getV k).getLsbD b =
        if k = 15 ∧ s.cfg.vfReset = true then false else if k = x then bit b else (s.getV k).getLsbD b := by
  refine ⟨_, hexec, onlyRegsPc_writeLogic s x v 2, advanced_advance (State.writeLogic_pc s x v) 2, fun k b _ => ?_⟩
  have hclear : (0 : Byte).getLsbD b = false := BitVec.getLsbD_zero
  rw [State.getV_advance, State.getV_writeLogic, apply_ite (BitVec.getLsbD · b), apply_ite (BitVec.getLsbD · b),
    hclear, hbit]

end

/-! ## The results and their flags -/

theorem flagByte_toNat (b : Bool) : (flagByte b).toNat = b.toNat := by
  cases b <;> rfl

theorem flagByte_decide_toNat (p : Prop) [Decidable p] : (flagByte (decide p)).toNat = if p then 1 else 0 := by
  rw [flagByte_toNat, Bool.toNat, Bool.cond_decide]

theorem byte_sub_toNat (a b : Byte) :
    (a - b).toNat = if a.toNat ≥ b.toNat then a.toNat - b.toNat else a.toNat + 256 - b.toNat := by
  split <;> bv_omega

/-- Bit 0 is the remainder of the halving. -/
theorem flagByte_bit_zero_toNat (a : Byte) : (flagByte (a.getLsbD 0)).toNat = a.toNat % 2 := by
  rw [flagByte_toNat]
  exact (Nat.toNat_testBit a.toNat 0).trans (by simp)

/-- Bit 7 is what the doubling has above a byte. -/
theorem flagByte_bit_seven_toNat (a : Byte) : (flagByte (a.getLsbD 7)).toNat = a.toNat / 128 := by
  have hlt : a.toNat / 128 < 2 := by have := a.isLt; omega
  rw [flagByte_toNat]
  exact (Nat.toNat_testBit a.toNat 7).trans (Nat.mod_eq_of_lt hlt)

theorem shr_one_toNat (a : Byte) : (a >>> 1).toNat = a.toNat / 2 := by
  rw [BitVec.toNat_ushiftRight, Nat.shiftRight_eq_div_pow]

theorem shl_one_toNat (a : Byte) : (a <<< 1).toNat = a.toNat * 2 % 256 := by
  rw [BitVec.toNat_shiftLeft, Nat.shiftLeft_eq]

theorem shiftSource_toNat (s : State) (x y : Nibble) :
    (shiftSource s x y).toNat = if s.cfg.shifting then (s.getV x).toNat else (s.getV y).toNat :=
  apply_ite BitVec.toNat _ _ _

theorem and_mask_and_not (a m : Byte) : a &&& m &&& ~~~m = 0 := by
  rw [BitVec.and_assoc, BitVec.and_not_self]
  exact BitVec.and_zero

/-! ## The instructions -/

/-- Settles O37: the three differ in the operation on the bits alone. -/
theorem logicAndTheFlagQuirk : Obligations.LogicAndTheFlagQuirk := by
  unfold Obligations.LogicAndTheFlagQuirk
  refine ⟨encodes_xy 8 1 (fun _ _ => rfl) fun _ _ => rfl, encodes_xy 8 2 (fun _ _ => rfl) fun _ _ => rfl,
    encodes_xy 8 3 (fun _ _ => rfl) fun _ _ => rfl, fun x y s => ⟨?_, ?_, ?_⟩⟩
  · exact regs_of_exec_writeLogic rfl fun _ => BitVec.getLsbD_or
  · exact regs_of_exec_writeLogic rfl fun _ => BitVec.getLsbD_and
  · exact regs_of_exec_writeLogic rfl fun _ => BitVec.getLsbD_xor

/-- Settles O38: the carry is decided on the sum of the numbers, before the reduction. -/
theorem addSetsTheCarry : Obligations.AddSetsTheCarry := by
  unfold Obligations.AddSetsTheCarry
  refine ⟨encodes_xy 8 4 (fun _ _ => rfl) fun _ _ => rfl, fun x y s => ?_⟩
  exact regs_of_exec_writeResult rfl (flagByte_decide_toNat _) (BitVec.toNat_add _ _)

/-- Settles O39: both are the one subtraction, with its operands in the two orders. -/
theorem subtractionsSetNoBorrow : Obligations.SubtractionsSetNoBorrow := by
  unfold Obligations.SubtractionsSetNoBorrow
  refine ⟨encodes_xy 8 5 (fun _ _ => rfl) fun _ _ => rfl, encodes_xy 8 7 (fun _ _ => rfl) fun _ _ => rfl,
    fun x y s => ⟨?_, ?_⟩⟩
  · exact regs_of_exec_writeResult rfl (flagByte_decide_toNat _) (byte_sub_toNat _ _)
  · exact regs_of_exec_writeResult rfl (flagByte_decide_toNat _) (byte_sub_toNat _ _)

/-- Settles O40: the quirk flag selects the source, and the bit shifted out is its lowest, respectively highest. -/
theorem shiftsSetTheBitShiftedOut : Obligations.ShiftsSetTheBitShiftedOut := by
  unfold Obligations.ShiftsSetTheBitShiftedOut
  refine ⟨encodes_xy 8 6 (fun _ _ => rfl) fun _ _ => rfl, encodes_xy 8 0xE (fun _ _ => rfl) fun _ _ => rfl,
    fun x y s => ?_⟩
  rw [← shiftSource_toNat]
  constructor
  · exact regs_of_exec_writeResult rfl (flagByte_bit_zero_toNat _) (shr_one_toNat _)
  · exact regs_of_exec_writeResult rfl (flagByte_bit_seven_toNat _) (shl_one_toNat _)

/-- Settles O35: both write the destination alone. -/
theorem loadsOfARegister : Obligations.LoadsOfARegister := by
  unfold Obligations.LoadsOfARegister
  refine ⟨encodes_xnn 6 (fun _ _ => rfl) fun _ _ => rfl, encodes_xy 8 0 (fun _ _ => rfl) fun _ _ => rfl,
    fun x y nn s => ⟨?_, ?_⟩⟩
  · exact regs_of_exec_setV rfl
  · exact regs_of_exec_setV rfl

/-- Settles O36: the destination is the one register written, so the flag changes only as the destination. -/
theorem addImmediateWrapsWithoutFlag : Obligations.AddImmediateWrapsWithoutFlag := by
  unfold Obligations.AddImmediateWrapsWithoutFlag
  refine ⟨encodes_xnn 7 (fun _ _ => rfl) fun _ _ => rfl, fun x nn s => ?_⟩
  obtain ⟨t, hexec, honly, hpc, hregs⟩ := regs_of_exec_setV (i := .addImm x nn) (s := s) rfl
  refine ⟨t, hexec, honly, hpc, fun k => ?_⟩
  rw [hregs, apply_ite BitVec.toNat, BitVec.toNat_add]

/-- Settles O41: nothing is used of the draw, and the mask clears what stands outside it. -/
theorem rndIsADrawUnderTheMask : Obligations.RndIsADrawUnderTheMask := by
  unfold Obligations.RndIsADrawUnderTheMask
  refine ⟨encodes_xnn 0xC (fun _ _ => rfl) fun _ _ => rfl, fun x nn s =>
    ⟨_, rfl, advanced_advance rfl 2, fun k => State.getV_setV s.afterDraw x k _, ?_, rfl, rfl, fun _ => rfl⟩⟩
  rw [State.getV_advance, State.getV_setV, if_pos rfl]
  exact and_mask_and_not s.draw nn

end Sys2Proof.Machine
end

section
/-! CLS and DRW (43_display.md R140 to R143). -/

namespace Sys2Proof.Machine

/-- Settles O42: every cell of the cleared grid is 0. -/
theorem clsClearsEveryCell : Obligations.ClsClearsEveryCell := by
  unfold Obligations.ClsClearsEveryCell
  refine ⟨encodes_x 0 0xE0 (fun _ => rfl) fun _ => rfl, fun ign s => ?_⟩
  exact ⟨(s.setFb Display.clear).advance 2, rfl, advanced_advance rfl 2, fun r c _ _ => Display.lit_clear r c, rfl,
    fun _ => rfl⟩

/-! ## The display as its cells -/

/-- A display is determined by its cells. -/
theorem Display.eq_of_lit_iff {fb fb' : Display}
    (h : ∀ r c, r < 32 → c < 64 → (fb.lit r c = true ↔ fb'.lit r c = true)) : fb = fb' := by
  refine Vector.ext fun r hr => Vector.ext fun c hc => ?_
  have hcell := Bool.eq_iff_iff.2 (h r c hr hc)
  rwa [Display.lit, Display.lit, dif_pos ⟨hr, hc⟩, dif_pos ⟨hr, hc⟩] at hcell

/-! ## The sprite a DRW draws -/

/-- The list of cells the blit of a DRW works through. -/
def drwCells (s : State) (x y n : Nibble) : List (Nat × Nat) :=
  spriteCells (spriteColumn s x) (spriteRow s y) (s.mem.readBytes s.i.toNat n.toNat)

theorem drawSprite_eq_blit (s : State) (x y n : Nibble) : drawSprite s x y n = blit s.fb (drwCells s x y n) := rfl

theorem mem_drwCells {s : State} {x y n : Nibble} {r c : Nat} :
    (r, c) ∈ drwCells s x y n ↔ SpriteCovers s x y n r c := by
  rw [drwCells, mem_spriteCells, Memory.readBytes_length]
  refine exists_congr fun i => exists_congr fun j => and_congr_right fun hi => ?_
  rw [List.getD_eq_getElem?_getD, Memory.readBytes_getElem? _ _ _ _ hi]
  rfl

/-- At most 15 rows stand below one another, so a DRW toggles no cell twice. -/
theorem drwCells_nodup (s : State) (x y n : Nibble) : (drwCells s x y n).Nodup := by
  refine spriteCells_nodup _ _ _ ?_
  rw [Memory.readBytes_length]
  exact Nat.le_of_lt (Nat.lt_trans n.isLt (by decide))

theorem drawSprite_lit (s : State) (x y n : Nibble) (r c : Nat) :
    (drawSprite s x y n).1.lit r c = true ↔ (SpriteCovers s x y n r c ↔ s.fb.lit r c = false) := by
  rw [drawSprite_eq_blit, blit_lit _ _ (drwCells_nodup s x y n) spriteCells_inGrid, ← mem_drwCells]
  cases s.fb.lit r c <;> simp

theorem drawSprite_hit (s : State) (x y n : Nibble) :
    (drawSprite s x y n).2 = true ↔ ∃ r c, SpriteCovers s x y n r c ∧ s.fb.lit r c = true := by
  rw [drawSprite_eq_blit, blit_hit _ _ (drwCells_nodup s x y n) spriteCells_inGrid, List.any_eq_true, Prod.exists]
  simp only [mem_drwCells]

/-- The cells depend on the coordinates after their reduction alone (decision D10). -/
theorem spriteCovers_congr {s t : State} {x y : Nibble} (hi : t.i = s.i) (hmem : t.mem = s.mem)
    (hx : (t.getV x).toNat % 64 = (s.getV x).toNat % 64) (hy : (t.getV y).toNat % 32 = (s.getV y).toNat % 32)
    (n : Nibble) (r c : Nat) : SpriteCovers t x y n r c ↔ SpriteCovers s x y n r c := by
  rw [SpriteCovers, hi, hmem, hx, hy, SpriteCovers]

/-! ## The state a DRW leaves -/

/-- The state after a DRW whose rows are in memory. -/
def State.afterDrw (s : State) (x y n : Nibble) : State :=
  ((s.setFb (drawSprite s x y n).1).setFlag (drawSprite s x y n).2).advance 2

theorem exec_drw_inMemory {s : State} {n : Nibble} (h : n = 0 ∨ s.i.toNat + (n.toNat - 1) ≤ 0xFFF) (x y : Nibble) :
    exec (.drw x y n) s = .next (s.afterDrw x y n) := by
  refine withRange_ok ?_ (.drw x y n) _
  rcases h with rfl | h
  · exact .inl rfl
  · omega

theorem flagByte_eq_one {b : Bool} : flagByte b = 1 ↔ b = true := by
  cases b <;> decide

theorem flagByte_eq_zero {b : Bool} : flagByte b = 0 ↔ ¬ b = true := by
  cases b <;> decide

section

variable (s : State) (x y n : Nibble)

theorem State.afterDrw_lit (r c : Nat) :
    (s.afterDrw x y n).fb.lit r c = true ↔ (SpriteCovers s x y n r c ↔ s.fb.lit r c = false) :=
  drawSprite_lit s x y n r c

theorem State.afterDrw_flag : (s.afterDrw x y n).getV 15 = flagByte (drawSprite s x y n).2 := by
  rw [State.afterDrw, State.getV_advance, State.getV_setFlag, if_pos rfl]

theorem State.afterDrw_flag_eq_one :
    (s.afterDrw x y n).getV 15 = 1 ↔ ∃ r c, SpriteCovers s x y n r c ∧ s.fb.lit r c = true := by
  rw [State.afterDrw_flag, flagByte_eq_one, drawSprite_hit]

theorem State.afterDrw_flag_eq_zero :
    (s.afterDrw x y n).getV 15 = 0 ↔ ¬ ∃ r c, SpriteCovers s x y n r c ∧ s.fb.lit r c = true := by
  rw [State.afterDrw_flag, flagByte_eq_zero, drawSprite_hit]

theorem State.getV_afterDrw_of_ne {k : Nibble} (hk : k ≠ 15) : (s.afterDrw x y n).getV k = s.getV k := by
  rw [State.afterDrw, State.getV_advance, State.getV_setFlag, if_neg hk, State.getV_setFb]

end

/-- Settles O43: the blit works through the cells the sprite covers, each of them once. -/
theorem drwBlitsTheSprite : Obligations.DrwBlitsTheSprite := by
  unfold Obligations.DrwBlitsTheSprite
  refine ⟨encodes_xyn 0xD (fun _ _ _ => rfl) fun _ _ _ => rfl, fun x y n s h => ?_⟩
  exact ⟨s.afterDrw x y n, exec_drw_inMemory h x y, advanced_advance rfl 2, fun r c _ _ => s.afterDrw_lit x y n r c,
    (s.afterDrw_flag_eq_one x y n).2, (s.afterDrw_flag_eq_zero x y n).2, fun _ => s.getV_afterDrw_of_ne x y n, rfl,
    fun _ => rfl⟩

/-- Settles O44: the second draw turns the same cells over again, and a covered cell it finds lit is one the first draw
turned on. -/
theorem drwTwiceRestoresTheDisplay : Obligations.DrwTwiceRestoresTheDisplay := by
  unfold Obligations.DrwTwiceRestoresTheDisplay
  intro x y n s h
  refine ⟨s.afterDrw x y n, exec_drw_inMemory h x y, fun hx hy => ?_⟩
  have hcovers := spriteCovers_congr (s := s) (t := s.afterDrw x y n) rfl rfl hx hy n
  have hlit := s.afterDrw_lit x y n
  refine ⟨(s.afterDrw x y n).afterDrw x y n, exec_drw_inMemory (s := s.afterDrw x y n) h x y, ?_, ?_⟩
  · refine Display.eq_of_lit_iff fun r c _ _ => ?_
    rw [State.afterDrw_lit, hcovers, ← Bool.not_eq_true, hlit]
    cases s.fb.lit r c <;> simp
  · rw [State.afterDrw_flag_eq_one]
    refine exists_congr fun r => exists_congr fun c => and_congr_left fun ht => ?_
    rw [hcovers]
    exact (hlit r c).1 ht

end Sys2Proof.Machine
end

section
/-! SKP and SKNP, LD Vx, K with a tick spent at it, and the timer transfers (44_keypad_timers.md R150 to R156). -/

namespace Sys2Proof.Machine

/-! ## The wait for a key -/

theorem State.advance_zero (s : State) : s.advance 0 = s :=
  congrArg s.jump (BitVec.add_zero s.pc)

theorem State.keyDown_eq_false {s : State} (hup : ∀ (k : Nat) (h : k < 16), s.keys[k] = false) (k : Nat) :
    s.keyDown k = false := by
  by_cases hk : k < 16
  · exact (s.keyDown_eq k hk).trans (hup k hk)
  · exact dif_neg hk

/-- The first pressed key is stored and the wait is over (R153). -/
theorem exec_ldVxK_pressed {s : State} {k : Nat} (hdown : s.keyDown k = true)
    (hup : ∀ j, j < k → s.keyDown j = false) (x : Nibble) :
    exec (.ldVxK x) s = .next (((s.setV x (BitVec.ofNat 8 k)).setAwait false).advance 2) := by
  change execLdVxK x s = _
  rw [execLdVxK, (s.lowestKey_some k).2 ⟨hdown, hup⟩]

/-- Without a pressed key the await flag is all that is written (R153). -/
theorem exec_ldVxK_waits {s : State} (hup : ∀ (k : Nat) (h : k < 16), s.keys[k] = false) (x : Nibble) :
    exec (.ldVxK x) s = .next (s.setAwait true) := by
  change execLdVxK x s = _
  rw [execLdVxK, s.lowestKey_none.2 (State.keyDown_eq_false hup)]
  exact congrArg Host.Outcome.next (s.setAwait true).advance_zero

/-- Settles O46: a key number fits in a byte, so the register holds it. -/
theorem waitForKeyTakesTheLowest : Obligations.WaitForKeyTakesTheLowest := by
  unfold Obligations.WaitForKeyTakesTheLowest
  refine ⟨encodes_x 0xF 0x0A (fun _ => rfl) fun _ => rfl, fun x s => ⟨fun k hk hdown hup => ?_, fun hup =>
    exec_ldVxK_waits hup x⟩⟩
  have hlow : ∀ j, j < k → s.keyDown j = false := fun j hj =>
    (s.keyDown_eq j (Nat.lt_trans hj hk)).trans (hup j hj)
  have hbyte : (BitVec.ofNat 8 k).toNat = k := Nat.mod_eq_of_lt (Nat.lt_trans hk (by decide))
  refine ⟨_, exec_ldVxK_pressed ((s.keyDown_eq k hk).trans hdown) hlow x, advanced_advance rfl 2, rfl, fun r => ?_,
    rfl, fun _ => rfl⟩
  rw [State.getV_advance, State.getV_setAwait, State.getV_setV, apply_ite BitVec.toNat, hbyte]

/-! ## The tick spent at the wait -/

/-- A running state that its own cycle leaves as it is goes through the rest of the tick unchanged. -/
theorem tickLoop_of_cycle_self {s : State} (hs : s.halted = false) (hc : cycle s = .next s) (n : Nat) :
    tickLoop n s = .next (timerStep s) := by
  induction n with
  | zero => rfl
  | succ n ih => simpa [tickLoop, hc, hs] using ih

theorem cycle_ldVxK_waits {s : State} {x : Nibble} (hs : s.halted = false) (hpc : s.pc.toNat ≤ 0xFFE)
    (hdec : decode (s.mem.readBytes s.pc.toNat 2) = .ok (.ldVxK x, []))
    (hup : ∀ (k : Nat) (h : k < 16), s.keys[k] = false) : cycle s = .next (s.setAwait true) :=
  (cycle_of_decode_ok hs (State.fetch_ok hpc) (decodeWord_of_decode_pair hdec)).trans (exec_ldVxK_waits hup x)

/-- Settles O47: the first cycle sets the await flag, and the cycle of the state with the flag set changes nothing. -/
theorem tickWithoutKeysStaysAtTheWait : Obligations.TickWithoutKeysStaysAtTheWait := by
  unfold Obligations.TickWithoutKeysStaysAtTheWait
  intro x s hs hbudget hpc hdec hup
  have hfirst : cycle s = .next (s.setAwait true) := cycle_ldVxK_waits hs hpc hdec hup
  have hagain : cycle (s.setAwait true) = .next (s.setAwait true) :=
    cycle_ldVxK_waits (s := s.setAwait true) hs hpc hdec hup
  obtain ⟨n, hn⟩ := Nat.exists_eq_add_of_le' hbudget
  calc tick s
      = tickLoop (n + 1) s := by rw [tick_running hs, hn]
    _ = tickLoop n (s.setAwait true) := by simp [tickLoop, hfirst, hs]
    _ = .next (timerStep (s.setAwait true)) := tickLoop_of_cycle_self (s := s.setAwait true) hs hagain n
    _ = _ := congrArg Host.Outcome.next (timerStep_eq _)

/-! ## The key skips -/

/-- Settles O45: the key check passes, and the two skips test the key for opposite values. -/
theorem keySkips : Obligations.KeySkips := by
  unfold Obligations.KeySkips
  refine ⟨encodes_x 0xE 0x9E (fun _ => rfl) fun _ => rfl, encodes_x 0xE 0xA1 (fun _ => rfl) fun _ => rfl,
    fun x s h => ?_⟩
  have hle : (s.getV x).toNat ≤ 15 := Nat.le_of_lt_succ h
  rw [← s.keyDown_eq _ h]
  constructor
  · exact skips_of_exec (withKey_ok hle (.skp x) _) Iff.rfl
  · rw [← ite_not]
    exact skips_of_exec (withKey_ok hle (.sknp x) _) (by rw [Bool.not_eq_true', Bool.not_eq_true])

/-! ## The timers -/

/-- Settles O48. -/
theorem timerTransfers : Obligations.TimerTransfers := by
  unfold Obligations.TimerTransfers
  refine ⟨encodes_x 0xF 0x07 (fun _ => rfl) fun _ => rfl, encodes_x 0xF 0x15 (fun _ => rfl) fun _ => rfl,
    encodes_x 0xF 0x18 (fun _ => rfl) fun _ => rfl, fun x s => ⟨?_, ?_, ?_⟩⟩
  · exact regs_of_exec_setV rfl
  · exact ⟨(s.setDt (s.getV x)).advance 2, rfl, advanced_advance rfl 2, rfl, rfl, fun _ => rfl⟩
  · exact ⟨(s.setSt (s.getV x)).advance 2, rfl, advanced_advance rfl 2, rfl, rfl, fun _ => rfl⟩

end Sys2Proof.Machine
end

section
/-! LD I, ADD I, LD F and the memory transfers LD B, LD [I], Vx and LD Vx, [I] (45_index_memory.md R160 to R167). -/

namespace Sys2Proof.Machine

/-! ## The address register -/

/-- An instruction that writes `I` alone, its new value read as a number. -/
theorem index_of_exec_setI {i : Instr} {s : State} {w : Word} {n : Nat}
    (hexec : exec i s = .next ((s.setI w).advance 2)) (hw : w.toNat = n) :
    ∃ t, exec i s = .next t ∧ OnlyIPc s t ∧ Advanced s t 2 ∧ t.i.toNat = n :=
  ⟨_, hexec, ⟨rfl, fun _ => rfl⟩, advanced_advance rfl 2, hw⟩

theorem indexPlus_toNat (s : State) (x : Nibble) :
    (indexPlus s x).toNat = (s.i.toNat + (s.getV x).toNat) % 65536 := by
  rw [indexPlus, BitVec.toNat_add, BitVec.toNat_setWidth_of_le (by decide)]

/-- The sixteen glyphs lie low in memory, so their addresses do not wrap. -/
theorem glyphAddress_toNat (b : Byte) : (glyphAddress b).toNat = 0x050 + 5 * (b.toNat % 16) := by
  rw [glyphAddress, BitVec.toNat_ofNat, fontBase]
  omega

/-- Settles O49: each of the three writes `I` alone. -/
theorem indexRegisterWrites : Obligations.IndexRegisterWrites := by
  unfold Obligations.IndexRegisterWrites
  refine ⟨encodes_nnn 0xA (fun _ => rfl) fun _ => rfl, encodes_x 0xF 0x1E (fun _ => rfl) fun _ => rfl,
    encodes_x 0xF 0x29 (fun _ => rfl) fun _ => rfl, fun x nnn s => ⟨?_, ?_, ?_⟩⟩
  · exact index_of_exec_setI rfl (addrOperand_toNat nnn)
  · exact index_of_exec_setI rfl (indexPlus_toNat s x)
  · exact index_of_exec_setI rfl (glyphAddress_toNat _)

/-- The access range of a bulk transfer ends inside memory, so `I` cannot wrap behind it (R165). -/
theorem indexAfterBulk_toNat {s : State} {x : Nibble} (h : s.i.toNat + x.toNat ≤ 0xFFF) :
    (indexAfterBulk s x).toNat = if s.cfg.memory then s.i.toNat + x.toNat + 1 else s.i.toNat := by
  rw [indexAfterBulk, apply_ite BitVec.toNat, BitVec.toNat_add, BitVec.toNat_ofNat]
  congr 1
  omega

/-! ## Bytes stored at rising addresses -/

section

variable {m : Memory} {a : Nat} {bytes : List Byte} (hm : m.wf = true) (ha : a + bytes.length ≤ memSize)
include hm ha

theorem Memory.read_writeBytes_stored {k : Nat} (hk : k < bytes.length) :
    (m.writeBytes a bytes).read (a + k) = bytes.getD k 0 := by
  rw [Memory.read_writeBytes m a _ bytes hm ha, if_pos (by omega), Nat.add_sub_cancel_left]

theorem Memory.read_writeBytes_outside {b : Nat} (hb : b < a ∨ a + bytes.length ≤ b) :
    (m.writeBytes a bytes).read b = m.read b := by
  rw [Memory.read_writeBytes m a b bytes hm ha, if_neg (by omega)]

end

/-! ## The decimal digits -/

/-- The state after a LD B whose three cells are in memory. -/
def State.afterLdB (s : State) (x : Nibble) : State :=
  (s.setMem (s.mem.writeBytes s.i.toNat (bcdDigits (s.getV x)))).advance 2

theorem exec_ldB_inMemory {s : State} (h : s.i.toNat + 2 ≤ 0xFFF) (x : Nibble) :
    exec (.ldB x) s = .next (s.afterLdB x) :=
  withRange_ok (.inr (by omega)) (.ldB x) _

/-- Each digit of a byte is itself a byte. -/
theorem bcdDigits_toNat (b : Byte) :
    (bcdDigits b).map BitVec.toNat = [b.toNat / 100, b.toNat / 10 % 10, b.toNat % 10] := by
  have hb := b.isLt
  simp only [bcdDigits, List.map_cons, List.map_nil, BitVec.toNat_ofNat, List.cons.injEq, and_true]
  omega

section

variable {s : State} (hm : s.mem.wf = true) (h : s.i.toNat + 2 ≤ 0xFFF) (x : Nibble)
include hm h

theorem State.afterLdB_read_digit {k : Nat} (hk : k < 3) : ((s.afterLdB x).mem.read (s.i.toNat + k)).toNat =
    [(s.getV x).toNat / 100, (s.getV x).toNat / 10 % 10, (s.getV x).toNat % 10].getD k 0 := by
  rw [← bcdDigits_toNat]
  have hread := Memory.read_writeBytes_stored hm (bytes := bcdDigits (s.getV x)) (Nat.succ_le_succ h) hk
  exact (congrArg BitVec.toNat hread).trans (List.getD_map _ 0 BitVec.toNat).symm

theorem State.afterLdB_read_outside {a : Nat} (ha : a < s.i.toNat ∨ s.i.toNat + 2 < a) :
    (s.afterLdB x).mem.read a = s.mem.read a :=
  Memory.read_writeBytes_outside hm (Nat.succ_le_succ h) ha

end

/-- Settles O50: the three digits are the bytes stored from `I`. -/
theorem ldBStoresThreeDigits : Obligations.LdBStoresThreeDigits := by
  unfold Obligations.LdBStoresThreeDigits
  refine ⟨encodes_x 0xF 0x33 (fun _ => rfl) fun _ => rfl, fun x s hm h => ?_⟩
  have hdigit (k : Nat) (hk : k < 3) := State.afterLdB_read_digit hm h x hk
  exact ⟨s.afterLdB x, exec_ldB_inMemory h x, advanced_advance rfl 2, rfl, hdigit 0 (by decide), hdigit 1 (by decide),
    hdigit 2 (by decide), fun _ => State.afterLdB_read_outside hm h x⟩

/-! ## The bulk transfers -/

/-- The state after a LD [I], Vx whose cells are in memory. -/
def State.afterStoreRegs (s : State) (x : Nibble) : State :=
  ((s.setMem (s.mem.writeBytes s.i.toNat (s.regsTo x))).setI (indexAfterBulk s x)).advance 2

/-- The state after a LD Vx, [I] whose cells are in memory. -/
def State.afterLoadRegs (s : State) (x : Nibble) : State :=
  ((s.loadV (s.mem.readBytes s.i.toNat (bulkCount x))).setI (indexAfterBulk s x)).advance 2

theorem State.getV_afterLoadRegs (s : State) (x k : Nibble) : (s.afterLoadRegs x).getV k =
    if k.toNat ≤ x.toNat then s.mem.read (s.i.toNat + k.toNat) else s.getV k := by
  rw [State.afterLoadRegs, State.getV_advance, State.getV_setI, State.getV_loadV, Memory.readBytes_length, bulkCount]
  simp only [Nat.lt_succ_iff]
  split
  · next hk =>
    rw [List.getD_eq_getElem?_getD, Memory.readBytes_getElem? _ _ _ _ (Nat.lt_succ_of_le hk)]
    rfl
  · rfl

section

variable {s : State} {x : Nibble} (h : s.i.toNat + x.toNat ≤ 0xFFF)
include h

theorem exec_storeRegs_inMemory : exec (.storeRegs x) s = .next (s.afterStoreRegs x) :=
  withRange_ok (.inr (Nat.succ_le_succ h)) (.storeRegs x) _

theorem exec_loadRegs_inMemory : exec (.loadRegs x) s = .next (s.afterLoadRegs x) :=
  withRange_ok (.inr (Nat.succ_le_succ h)) (.loadRegs x) _

theorem regsTo_fits : s.i.toNat + (s.regsTo x).length ≤ memSize := by
  rw [State.regsTo_length]
  exact Nat.succ_le_succ h

theorem State.afterStoreRegs_read_stored (hm : s.mem.wf = true) {k : Nibble} (hk : k.toNat ≤ x.toNat) :
    (s.afterStoreRegs x).mem.read (s.i.toNat + k.toNat) = s.getV k := by
  rw [← s.regsTo_getD x k hk]
  exact Memory.read_writeBytes_stored hm (regsTo_fits h) (by rw [State.regsTo_length]; omega)

theorem State.afterStoreRegs_read_outside (hm : s.mem.wf = true) {a : Nat}
    (ha : a < s.i.toNat ∨ s.i.toNat + x.toNat < a) : (s.afterStoreRegs x).mem.read a = s.mem.read a :=
  Memory.read_writeBytes_outside hm (regsTo_fits h) (by rw [State.regsTo_length]; omega)

end

/-- Settles O51: the registers are the bytes stored from `I`. -/
theorem bulkStore : Obligations.BulkStore := by
  unfold Obligations.BulkStore
  refine ⟨encodes_x 0xF 0x55 (fun _ => rfl) fun _ => rfl, fun x s hm h => ?_⟩
  exact ⟨s.afterStoreRegs x, exec_storeRegs_inMemory h, advanced_advance rfl 2, rfl, indexAfterBulk_toNat h,
    fun _ => State.afterStoreRegs_read_stored h hm, fun _ => State.afterStoreRegs_read_outside h hm⟩

/-- Settles O52: the bytes read from `I` go to the registers in order. -/
theorem bulkLoad : Obligations.BulkLoad := by
  unfold Obligations.BulkLoad
  refine ⟨encodes_x 0xF 0x65 (fun _ => rfl) fun _ => rfl, fun x s h => ?_⟩
  exact ⟨s.afterLoadRegs x, exec_loadRegs_inMemory h, advanced_advance rfl 2, rfl, indexAfterBulk_toNat h,
    s.getV_afterLoadRegs x, fun _ => rfl⟩

/-- Settles O53: the load reads the cells the store has written, from the `I` it has used. -/
theorem loadAfterStoreGivesTheRegistersBack : Obligations.LoadAfterStoreGivesTheRegistersBack := by
  unfold Obligations.LoadAfterStoreGivesTheRegistersBack
  intro x s hm h
  refine ⟨s.afterStoreRegs x, exec_storeRegs_inMemory h, fun u hmem hi => ?_⟩
  refine ⟨u.afterLoadRegs x, exec_loadRegs_inMemory (hi ▸ h), fun k hk => ?_⟩
  rw [State.getV_afterLoadRegs, if_pos hk, hmem, hi]
  exact State.afterStoreRegs_read_stored h hm hk

end Sys2Proof.Machine
end

section
/-! The fatal conditions an instruction can take, and the timers and the tick (60_exceptions.md R200, R204, R212,
R213). -/

namespace Sys2Proof.Machine

/-! ## Fatal conditions of instructions -/

/-- Settles O11: an instruction that takes no fatal condition writes no halt latch, so it leaves a running machine
running. -/
theorem handlerFatalIsPrecise : Obligations.HandlerFatalIsPrecise := by
  unfold Obligations.HandlerFatalIsPrecise
  intro i s t hs h ht
  obtain ⟨c, n, rfl⟩ | hw := exec_next_cases h
  · exact ⟨c, n, s.raiseFatal_takesFatal c n _⟩
  · obtain ⟨hhalted, -⟩ := hw.halted_fault_eq
    exact absurd ((hhalted.trans hs).symm.trans ht) Bool.false_ne_true

/-- Settles O12: each of these instructions answers a next state on every path, by writes that leave the latch and the
record alone. -/
theorem otherInstructionsNeverFault : Obligations.OtherInstructionsNeverFault := by
  unfold Obligations.OtherInstructionsNeverFault
  intro i s hi
  cases i with
  | sys | call | ret | drw | ldB | storeRegs | loadRegs | skp | sknp => cases hi
  | orReg x y | andReg x y | xorReg x y =>
    exact ⟨_, rfl, State.writeLogic_halted s x _, State.writeLogic_fault s x _⟩
  | ldVxK x =>
    rcases execLdVxK_cases x s with ⟨-, e⟩ | ⟨k, -, -, e⟩
    · exact ⟨_, e, rfl, rfl⟩
    · exact ⟨_, e, rfl, rfl⟩
  | _ => exact ⟨_, rfl, rfl, rfl⟩

/-! ## The timer step -/

theorem countDown_toNat (t : Byte) : (countDown t).toNat = t.toNat - 1 := by
  rw [countDown_eq, BitVec.toNat_ofNat, Nat.mod_eq_of_lt (by omega)]

/-- Settles O54, by induction on the number of timer steps. -/
theorem timersCountDownToZero : Obligations.TimersCountDownToZero := by
  unfold Obligations.TimersCountDownToZero
  intro k s
  induction k with
  | zero => exact ⟨rfl, rfl, rfl⟩
  | succ k ih =>
    obtain ⟨hdt, hst, hframe⟩ := ih
    rw [Function.iterate_succ_apply']
    refine ⟨?_, ?_, congrArg timerStep hframe⟩
    · rw [timerStep_dt, countDown_toNat, hdt, Nat.sub_sub]
    · rw [timerStep_st, countDown_toNat, hst, Nat.sub_sub]

/-! ## The cycles of a tick -/

theorem cycles_succ_of_cycle {s u : State} (h : cycle s = .next u) (n : Nat) : cycles (n + 1) s = cycles n u := by
  rw [cycles, h]

/-- A tick that has cycles left and answers a next state ends at its next cycle or goes on behind it (R212). -/
theorem tickLoop_succ_cases {n : Nat} {s t : State} (h : tickLoop (n + 1) s = .next t) :
    (t.halted = true ∧ cycle s = .next t) ∨
      ∃ u, u.halted = false ∧ cycle s = .next u ∧ tickLoop n u = .next t := by
  rw [tickLoop] at h
  cases hc : cycle s with
  | next u =>
    cases hu : u.halted with
    | true =>
      simp only [hc, hu, if_true] at h
      cases h
      exact .inl ⟨hu, rfl⟩
    | false =>
      simp only [hc, hu, Bool.false_eq_true, if_false] at h
      exact .inr ⟨u, hu, rfl, h⟩
  | fault r => rw [hc] at h; cases h
  | refused r => rw [hc] at h; cases h

/-- How the rest of a tick ends, by induction on the cycles left: a cycle that does not halt shifts the count of the
cycles behind it by one. -/
theorem tickLoop_next_cases {n : Nat} {s t : State} (hs : s.halted = false) (h : tickLoop n s = .next t) :
    (t.halted = false ∧ ∃ u, cycles n s = .next u ∧ u.halted = false ∧ t = timerStep u) ∨
      (t.halted = true ∧ ∃ k u, k < n ∧ cycles k s = .next u ∧ u.halted = false ∧ cycle u = .next t) := by
  induction n generalizing s with
  | zero =>
    cases h
    exact .inl ⟨hs, s, rfl, hs, rfl⟩
  | succ n ih =>
    obtain ⟨ht, hc⟩ | ⟨v, hv, hc, hrest⟩ := tickLoop_succ_cases h
    · exact .inr ⟨ht, 0, s, Nat.succ_pos n, rfl, hs, hc⟩
    · obtain ⟨ht, u, hcycles, hend⟩ | ⟨ht, k, u, hk, hcycles, hend⟩ := ih hv hrest
      · exact .inl ⟨ht, u, (cycles_succ_of_cycle hc n).trans hcycles, hend⟩
      · exact .inr ⟨ht, k + 1, u, Nat.succ_lt_succ hk, (cycles_succ_of_cycle hc k).trans hcycles, hend⟩

/-- Settles O55: the tick of a running machine is its loop with the whole budget left. -/
theorem tickIsCyclesThenOneTimerStep : Obligations.TickIsCyclesThenOneTimerStep := by
  unfold Obligations.TickIsCyclesThenOneTimerStep
  exact fun s t hs h => tickLoop_next_cases hs ((tick_running hs).symm.trans h)

end Sys2Proof.Machine
end

section
/-! The host's transactions between ticks (70_reset_and_hazards.md R236 to R241): what each of them answers on an idle
machine, and that none is answered during a tick. -/

namespace Sys2Proof.Machine

theorem hostAct_duringTick (p : Params) (m : HostMove) {s : State} (h : s.tickLeft ≠ 0) :
    hostAct p m s = .refused .hostDuringTick :=
  if_pos h

theorem tickReply_of_tick {s t : State} (h : tick s = .next t) : tickReply s = .next (t, .ticked t.halted) := by
  rw [tickReply, h]

/-! ## The answers between ticks -/

section

variable (p : Params) {s : State} (h0 : s.tickLeft = 0)
include h0

theorem hostAct_setKey (k : Nibble) (b : Bool) : hostAct p (.setKey k b) s = .next (s.setKey k b, .nothing) :=
  if_neg (not_not.2 h0)

theorem hostAct_setConfig (q : ConfigRequest) : hostAct p (.setConfig q) s = .next (s.setConfig q, .nothing) :=
  if_neg (not_not.2 h0)

theorem hostAct_readDisplay : hostAct p .readDisplay s = .next (s, .display s.fb) :=
  if_neg (not_not.2 h0)

theorem hostAct_readDump : hostAct p .readDump s = .next (s, .dump s.dump) :=
  if_neg (not_not.2 h0)

theorem hostAct_tick : hostAct p .tick s = tickReply s :=
  if_neg (not_not.2 h0)

theorem hostAct_load_fits {bytes : List Byte} (h : bytes.length ≤ p.programEnd - 0x200) :
    hostAct p (.load bytes) s = .next (s.setMem (s.mem.writeBytes 0x200 bytes), .loadOk) := by
  have hload : s.load p bytes = some (s.setMem (s.mem.writeBytes 0x200 bytes)) := if_pos h
  rw [hostAct, if_neg (not_not.2 h0)]
  simp only [hload]

theorem hostAct_load_tooLong {bytes : List Byte} (h : p.programEnd - 0x200 < bytes.length) :
    hostAct p (.load bytes) s = .next (s, .loadRejected) := by
  have hload : s.load p bytes = none := if_neg (Nat.not_le.2 h)
  rw [hostAct, if_neg (not_not.2 h0)]
  simp only [hload]

end

/-! ## load -/

/-- A program within the capacity ends inside memory, because the program end does (R9). -/
theorem Params.program_fits (p : Params) {n : Nat} (h : n ≤ p.programEnd - 0x200) : 0x200 + n ≤ memSize := by
  have hgt : 0x200 < p.programEnd := p.programEnd_gt
  have hle := p.programEnd_le
  omega

/-- Settles O57: a program within the capacity is stored inside memory, so each of its bytes reads back. -/
theorem loadWritesTheProgramOrNothing : Obligations.LoadWritesTheProgramOrNothing := by
  unfold Obligations.LoadWritesTheProgramOrNothing
  refine ⟨fun p s bytes h0 => ⟨fun hm hlen => ?_, hostAct_load_tooLong p h0⟩, rfl⟩
  have hfit := p.program_fits hlen
  refine ⟨_, hostAct_load_fits p h0 hlen, rfl, fun k hk => ?_, fun a ha => ?_⟩
  · rw [State.setMem_mem, Memory.read_writeBytes_stored hm hfit hk, List.getD_eq_getElem _ _ hk]
  · exact Memory.read_writeBytes_outside hm hfit ha

/-! ## set_key -/

theorem State.setKey_keys_getElem (s : State) (k : Nibble) (b : Bool) (j : Nat) (hj : j < 16) :
    (s.setKey k b).keys[j] = if j = k.toNat then b else s.keys[j] := by
  simp only [State.setKey_keys, Vector.getElem_set, eq_comm]

/-- Settles O58: the one pressed key is the lowest one, which the wait for a key takes. -/
theorem setKeyChangesOneKey : Obligations.SetKeyChangesOneKey := by
  unfold Obligations.SetKeyChangesOneKey
  intro q k p s h0
  have hkeys := s.setKey_keys_getElem k p
  refine ⟨s.setKey k p, hostAct_setKey q h0 k p, rfl, hkeys, fun x hp hup => ?_⟩
  have hdown : (s.setKey k p).keys[k.toNat] = true := (hkeys _ k.isLt).trans ((if_pos rfl).trans hp)
  have hlow : ∀ (j : Nat) (hj : j < k.toNat), (s.setKey k p).keys[j] = false := fun j hj =>
    (hkeys j _).trans ((if_neg (Nat.ne_of_lt hj)).trans (hup j _))
  obtain ⟨-, hwait⟩ := waitForKeyTakesTheLowest
  obtain ⟨hpressed, -⟩ := hwait x (s.setKey k p)
  obtain ⟨u, hu, hpc, hawait, hv, -⟩ := hpressed k.toNat k.isLt hdown hlow
  exact ⟨u, hu, (hv x).trans (if_pos rfl), hawait, hpc⟩

/-! ## set_config -/

/-- The stored budget in the integers, where the request is made (decision D24). -/
theorem clampCycles_toInt (n : Int) : (clampCycles n : Int) = if n < 1 then 1 else n := by
  unfold clampCycles
  omega

/-- Settles O59: the four flags are the update itself; the budget splits on whether the request names one. -/
theorem setConfigClampsTheBudget : Obligations.SetConfigClampsTheBudget := by
  unfold Obligations.SetConfigClampsTheBudget
  intro p q s h0
  refine ⟨s.setConfig q, hostAct_setConfig p h0 q, rfl, rfl, rfl, rfl, rfl, fun hnone => ?_, fun n hsome => ?_⟩
  · simp [Cfg.update, hnone]
  · simp [Cfg.update, hsome, clampCycles_toInt]

/-! ## The host's turn -/

/-- Settles O60, from the answer of each move between ticks. -/
theorem hostMovesOnlyBetweenTicks : Obligations.HostMovesOnlyBetweenTicks := by
  unfold Obligations.HostMovesOnlyBetweenTicks
  intro p
  refine ⟨fun m s => hostAct_duringTick p m, fun s h0 => ⟨hostAct_readDisplay p h0, ?_, fun t ht => ?_⟩⟩
  · exact ⟨s.dump, hostAct_readDump p h0, rfl, rfl, rfl, rfl, rfl, rfl, rfl, rfl, rfl⟩
  · exact (hostAct_tick p h0).trans (tickReply_of_tick ht)

end Sys2Proof.Machine
end
